-- ==== Sys2Proof/Word.lean ====
section
/-! DEFINITION. The word, the byte, and the two vectors of words the core works on (00_scope.md R9, R13).
Everything that computes with them is in Sys2Proof/Machine/. -/

namespace Sys2Proof

/-- A word: 32 bits, numbered 31 down to 0 (00_scope.md R9; `W` = 32, R5). -/
abbrev Word := BitVec 32

/-- A byte: 8 bits (00_scope.md R9). -/
abbrev Byte := BitVec 8

/-- A block, "a vector of `NB` = 4 words indexed 0..3" (00_scope.md R9): a cipher state, and the register
file `ST[0..3]` (10_state.md R21). Word `i` is read by `Block.get` (Machine/Operands.lean). -/
structure Block where
  w0 : Word
  w1 : Word
  w2 : Word
  w3 : Word
deriving DecidableEq, Repr

/-- A key, "a vector of `NK` = 8 words indexed 0..7" (00_scope.md R9): the register file `KEY[0..7]`
(10_state.md R22). Word `j` is read by `Key.get` (Machine/Operands.lean). -/
structure Key where
  k0 : Word
  k1 : Word
  k2 : Word
  k3 : Word
  k4 : Word
  k5 : Word
  k6 : Word
  k7 : Word
deriving DecidableEq, Repr

end Sys2Proof
end

