-- ==== Sys2Proof/Config.lean ====
section
/-! DEFINITION. What is fixed for the machine: the record of the algorithm's constants (their values are
`Machine.params`, Machine/Constants.lean), the sizes of 00_scope.md R5 and R6, and the two interface
parameters the spec leaves open. -/

namespace Sys2Proof.Config

/-- The algorithm's constants, each under the name of 00_scope.md R5. The function level takes this record as
an argument, because the invertibility laws "hold for every value of the constants" (R5) and because the
literals are unaudited (R2, R5; log 12). -/
structure Params where
  /-- `C1`, XOR constant of the confusion layer. -/
  c1 : Word
  /-- `C2`, additive constant of the confusion layer. -/
  c2 : Word
  /-- `ROT_CONF`, rotation amount of the confusion layer. -/
  rotConf : Nat
  /-- `KS_MUL_I`, multiplier of the word index in the subkey constant. -/
  ksMulI : Nat
  /-- `KS_MUL_R`, multiplier of the round index in the subkey constant. -/
  ksMulR : Nat
  /-- `RF_ROT_A`, offset of the first round rotation. -/
  rfRotA : Nat
  /-- `RF_ROT_B`, offset of the second round rotation. -/
  rfRotB : Nat
  /-- `MIX_ROT0`, rotation in the update of word 0. -/
  mixRot0 : Nat
  /-- `MIX_ROT1`, rotation in the update of word 1. -/
  mixRot1 : Nat
  /-- `MIX_ROT2`, rotation in the update of word 2. -/
  mixRot2 : Nat
  /-- `MIX_ROT3`, rotation in the update of word 3. -/
  mixRot3 : Nat
deriving DecidableEq, Repr

/-- `NR`: the number of rounds (00_scope.md R5). -/
def nr : Nat := 16

/-- `W`: the word width in bits (R5). -/
def w : Nat := 32

/-- `NB`: the words of a block (R5). -/
def nb : Nat := 4

/-- `NK`: the words of a key (R5). -/
def nk : Nat := 8

/-- `DW`: the width of the host data path in bits (R6). -/
def dw : Nat := 32

/-- `AW`: the width of the host word address in bits (R6). -/
def aw : Nat := 4

/-- `RNDW`: the width of the round counter in bits (R6). -/
def rndw : Nat := 4

/-- The size of the register window in bytes: "16 words, 64 bytes" (R6, `AW`). -/
def windowBytes : Nat := 64

/-- `T_ACCESS`: the clock cycles of one host access (R6). -/
def tAccess : Nat := 1

/-- `BASE`, the byte address at which a platform places the window: OPEN (00_scope.md R6, 20_memory.md R55).
A parameter without a value (log 10). -/
opaque base : Nat

/-- `T_ROUND - 1`: the cycles a round step takes beyond the first. OPEN (00_scope.md R6; log 10). -/
opaque extraRoundCycles : Nat

/-- `T_ROUND`, the clock cycles one round step takes: an integer >= 1 (00_scope.md R6, 70_reset_and_hazards.md
R254). No rule of the machine depends on it; only `opCycles` reads it. -/
def tRound : Nat := extraRoundCycles + 1

/-- The cycles the sixteen round steps of an operation take at least (70_reset_and_hazards.md R254). -/
def opCycles : Nat := nr * tRound

end Sys2Proof.Config
end

