-- ==== Sys2Proof/Syntax.lean ====
section
/-! DEFINITION. The instructions: one constructor per row of spec/opcode_table.json (30_encoding.md R88, R89),
in the table's order, and the host access that carries the first fifteen of them (format `BUS`, R81). -/

namespace Sys2Proof

/-- One host access: the fields of format `BUS` (30_encoding.md R81), the values of the port signals `we`,
`wa`, `wd` in a cycle with `sel=1` (20_memory.md R67). On a read `wd` is ignored by the core. -/
structure Access where
  /-- 1 write, 0 read. -/
  we : Bool
  /-- The word address, 0..15. -/
  wa : BitVec 4
  /-- The write data. -/
  wd : Word
deriving DecidableEq, Repr

/-- The eighteen rows of the opcode table. The `wd` of a read is no operand: "every value decodes alike"
(30_encoding.md R81, R91 (d)). -/
inductive Instr where
  /-- `LDKEY j, v` (45_host_commands.md R181). -/
  | ldkey (j : Fin 8) (v : Word)
  /-- `RDKEY j` (R182). -/
  | rdkey (j : Fin 8)
  /-- `LDBLK j, v` (R183). -/
  | ldblk (j : Fin 4) (v : Word)
  /-- `RDBLK j` (R184). -/
  | rdblk (j : Fin 4)
  /-- `NOP` (R185). -/
  | nop
  /-- `ENC` (R186). -/
  | enc
  /-- `DEC` (R187). -/
  | dec
  /-- `CLRERR` (R188). -/
  | clrerr
  /-- `SRST` (R189). -/
  | srst
  /-- `CMD v`, a reserved command: `v` is none of 0..4 (R190; `Instr.wellFormed`). -/
  | cmd (v : Word)
  /-- `RDCTRL` (R191). -/
  | rdctrl
  /-- `WRSTAT v` (R193). -/
  | wrstat (v : Word)
  /-- `RDSTAT` (R192). -/
  | rdstat
  /-- `WRRSV a, v`, with `a = 14 + a0` (R194). -/
  | wrrsv (a0 : Fin 2) (v : Word)
  /-- `RDRSV a`, with `a = 14 + a0` (R195). -/
  | rdrsv (a0 : Fin 2)
  /-- The controller's `ENCROUND` step (44_round_controller.md R165). -/
  | encround
  /-- The controller's `DECROUND` step (R166). -/
  | decround
  /-- The selector `IDLE`: the controller has no step (R160). -/
  | idle
deriving DecidableEq, Repr

/-- The row's mnemonic, as spec/opcode_table.json spells it. -/
def Instr.mnemonic : Instr → String
  | .ldkey _ _ => "LDKEY"
  | .rdkey _ => "RDKEY"
  | .ldblk _ _ => "LDBLK"
  | .rdblk _ => "RDBLK"
  | .nop => "NOP"
  | .enc => "ENC"
  | .dec => "DEC"
  | .clrerr => "CLRERR"
  | .srst => "SRST"
  | .cmd _ => "CMD"
  | .rdctrl => "RDCTRL"
  | .wrstat _ => "WRSTAT"
  | .rdstat => "RDSTAT"
  | .wrrsv _ _ => "WRRSV"
  | .rdrsv _ => "RDRSV"
  | .encround => "ENCROUND"
  | .decround => "DECROUND"
  | .idle => "IDLE"

end Sys2Proof
end

