-- ==== Sys2Proof/WellFormed.lean ====
section
/-! DEFINITION. Which terms of `Instr` are instructions. The types bound every index (`j`, `a0`); the one check
left is that a reserved command is not one of the five commands. -/

namespace Sys2Proof

/-- `CMD v` is a "`CTRL` write of any `v` other than `0x00000000` to `0x00000004`" (45_host_commands.md R190);
every other term is an instruction. -/
def Instr.wellFormed : Instr → Bool
  | .ldkey _ _ => true
  | .rdkey _ => true
  | .ldblk _ _ => true
  | .rdblk _ => true
  | .nop => true
  | .enc => true
  | .dec => true
  | .clrerr => true
  | .srst => true
  | .cmd v => decide (4 < v.toNat)
  | .rdctrl => true
  | .wrstat _ => true
  | .rdstat => true
  | .wrrsv _ _ => true
  | .rdrsv _ => true
  | .encround => true
  | .decround => true
  | .idle => true

end Sys2Proof
end

