-- ==== Sys2Proof/Decode.lean ====
section
/-! DEFINITION. The decoders of the formats `BUS`, `CMD` and `CTL` (30_encoding.md R80 to R82, R84), the opcode
table as data (R88, R89), and after them the encoder. Decoding a `BUS` word or a `CTL` selector is total: "every
`BUS` word and every `CTL` selector has exactly one meaning" (R91 (g)); only a number too large for its format
is rejected. -/

namespace Sys2Proof

/-! ## Format BUS (R81) -/

/-- Bit 36, `we`. -/
def busWe (t : BitVec 37) : Bool := t.getLsbD 36

/-- Bits 35:32, `wa`. -/
def busWa (t : BitVec 37) : BitVec 4 := t.extractLsb' 32 4

/-- Bits 31:0, `wd`. -/
def busWd (t : BitVec 37) : Word := t.extractLsb' 0 32

/-- The access a transaction word `T` notes (R81). -/
def Access.ofBus (t : BitVec 37) : Access := { we := busWe t, wa := busWa t, wd := busWd t }

/-- The transaction word of an access: `T = {we, wa, wd}` (R81). -/
def Access.toBus (a : Access) : BitVec 37 := BitVec.ofBool a.we ++ a.wa ++ a.wd

/-! ## Format CMD (R82) -/

/-- Bits 2:0, `OP`. -/
def cmdOp (v : Word) : BitVec 3 := v.extractLsb' 0 3

/-- Bits 31:3, `Z`, which must be zero. -/
def cmdZ (v : Word) : BitVec 29 := v.extractLsb' 3 29

/-- A write with `wa = 12`: "legal exactly when `Z = 0` and `OP <= 4`" (R82); any other data is a reserved
command (R88 row 10). -/
def decodeCommand (v : Word) : Instr :=
  if cmdZ v = 0#29 then
    match (cmdOp v).toNat with
    | 0 => .nop
    | 1 => .enc
    | 2 => .dec
    | 3 => .clrerr
    | 4 => .srst
    | _ => .cmd v
  else .cmd v

/-! ## Decoding an access (R88) -/

/-- `j = wa[2:0]` for `wa` in 0..7 (R85). -/
def keyIndex (wa : BitVec 4) : Fin 8 := ⟨wa.toNat % 8, Nat.mod_lt _ (by decide)⟩

/-- `j = wa[1:0]` for `wa` in 8..11 (R85). -/
def blockIndex (wa : BitVec 4) : Fin 4 := ⟨wa.toNat % 4, Nat.mod_lt _ (by decide)⟩

/-- `a0 = wa[0]` for `wa` in 14..15 (R88 rows 14, 15). -/
def reservedIndex (wa : BitVec 4) : Fin 2 := ⟨wa.toNat % 2, Nat.mod_lt _ (by decide)⟩

/-- The instruction of a host access: `wa` of the forms `0jjj`, `10jj`, `1100`, `1101`, `111a` (R88). -/
def decodeAccess (a : Access) : Instr :=
  if a.wa.toNat < 8 then
    if a.we then .ldkey (keyIndex a.wa) a.wd else .rdkey (keyIndex a.wa)
  else if a.wa.toNat < 12 then
    if a.we then .ldblk (blockIndex a.wa) a.wd else .rdblk (blockIndex a.wa)
  else if a.wa.toNat = 12 then
    if a.we then decodeCommand a.wd else .rdctrl
  else if a.wa.toNat = 13 then
    if a.we then .wrstat a.wd else .rdstat
  else
    if a.we then .wrrsv (reservedIndex a.wa) a.wd else .rdrsv (reservedIndex a.wa)

/-- The instruction of a transaction word. -/
def decodeBus (t : BitVec 37) : Instr := decodeAccess (Access.ofBus t)

/-- The instruction of a controller selector `S = {BUSY, DIR}`: `2'b10`, `2'b11`, `2'b0x` (R84, R89). -/
def decodeCtl (s : BitVec 2) : Instr :=
  match s.toNat with
  | 2 => .encround
  | 3 => .decround
  | _ => .idle

/-- A word of one of the two formats that carry instructions. -/
inductive CodeWord where
  /-- Format `BUS`, 37 bits. -/
  | bus (t : BitVec 37)
  /-- Format `CTL`, 2 bits. -/
  | ctl (s : BitVec 2)
deriving DecidableEq, Repr

/-- The decoder, total (R91 (g)). -/
def decode : CodeWord → Instr
  | .bus t => decodeBus t
  | .ctl s => decodeCtl s

/-! ## The opcode table as data -/

/-- One row of the table of R88: `(T & mask) = match` selects it. -/
structure BusRow where
  mnemonic : String
  mask : BitVec 37
  bits : BitVec 37
deriving DecidableEq, Repr

/-- One row of the table of R89. -/
structure CtlRow where
  mnemonic : String
  mask : BitVec 2
  bits : BitVec 2
deriving DecidableEq, Repr

/-- The row selects this word. -/
def BusRow.selects (r : BusRow) (t : BitVec 37) : Bool := t &&& r.mask == r.bits

/-- The row selects this selector. -/
def CtlRow.selects (r : CtlRow) (s : BitVec 2) : Bool := s &&& r.mask == r.bits

/-- Rows 1 to 4, 10 to 15 of R88 without the commands: see `busTable`. -/
def busDataRows : List BusRow :=
  [ ⟨"LDKEY", 0x1800000000, 0x1000000000⟩,
    ⟨"RDKEY", 0x1800000000, 0x0000000000⟩,
    ⟨"LDBLK", 0x1C00000000, 0x1800000000⟩,
    ⟨"RDBLK", 0x1C00000000, 0x0800000000⟩ ]

/-- Rows 5 to 10 of R88: the writes of `CTRL`; row 10 overlaps the five before it and is reached last. -/
def busCommandRows : List BusRow :=
  [ ⟨"NOP", 0x1FFFFFFFFF, 0x1C00000000⟩,
    ⟨"ENC", 0x1FFFFFFFFF, 0x1C00000001⟩,
    ⟨"DEC", 0x1FFFFFFFFF, 0x1C00000002⟩,
    ⟨"CLRERR", 0x1FFFFFFFFF, 0x1C00000003⟩,
    ⟨"SRST", 0x1FFFFFFFFF, 0x1C00000004⟩,
    ⟨"CMD", 0x1F00000000, 0x1C00000000⟩ ]

/-- Rows 11 to 15 of R88. -/
def busStatusRows : List BusRow :=
  [ ⟨"RDCTRL", 0x1F00000000, 0x0C00000000⟩,
    ⟨"WRSTAT", 0x1F00000000, 0x1D00000000⟩,
    ⟨"RDSTAT", 0x1F00000000, 0x0D00000000⟩,
    ⟨"WRRSV", 0x1E00000000, 0x1E00000000⟩,
    ⟨"RDRSV", 0x1E00000000, 0x0E00000000⟩ ]

/-- The fifteen rows of R88, in the order in which they are tried. -/
def busTable : List BusRow := busDataRows ++ busCommandRows ++ busStatusRows

/-- The three rows of R89. -/
def ctlTable : List CtlRow :=
  [ ⟨"ENCROUND", 0x3, 0x2⟩, ⟨"DECROUND", 0x3, 0x3⟩, ⟨"IDLE", 0x2, 0x0⟩ ]

/-- "the first whose `(T & mask) = match` holds decides" (R88). -/
def busRowOf (t : BitVec 37) : Option String := (busTable.find? (·.selects t)).map (·.mnemonic)

/-- The row of R89 that selects `s`. -/
def ctlRowOf (s : BitVec 2) : Option String := (ctlTable.find? (·.selects s)).map (·.mnemonic)

/-! ## Words as numbers -/

/-- The formats that carry instructions. -/
inductive Format where
  /-- 37 bits. -/
  | bus
  /-- 2 bits. -/
  | ctl
deriving DecidableEq, Repr

/-- Why a number is no word of its format (log 9). -/
inductive Reject where
  /-- The number needs more than the 37 bits of a `BUS` word (30_encoding.md R92). -/
  | notABusWord
  /-- The number needs more than the 2 bits of a `CTL` selector (R84). -/
  | notASelector
deriving DecidableEq, Repr

/-- The code word a number notes, or why it is none. -/
def codeWord (f : Format) (w : Nat) : Except Reject CodeWord :=
  match f with
  | .bus => if w < 2 ^ 37 then .ok (.bus (BitVec.ofNat 37 w)) else .error .notABusWord
  | .ctl => if w < 2 ^ 2 then .ok (.ctl (BitVec.ofNat 2 w)) else .error .notASelector

/-- The instruction a number notes in a format, or why it notes none. -/
def decodeNat (f : Format) (w : Nat) : Except Reject Instr :=
  match codeWord f w with
  | .ok c => .ok (decode c)
  | .error r => .error r

/-- The format of a table row of `nbits` bits: the selectors fit one byte, the transaction words do not. -/
def formatOf (nbits : Nat) : Format := if nbits ≤ 8 then .ctl else .bus

/-- The instruction the decoder reads from a table word of `nbits` bits. -/
def decodeTableWord (nbits w : Nat) : Option Instr :=
  match decodeNat (formatOf nbits) w with
  | .ok i => some i
  | .error _ => none

/-! ## The encoder -/

/-- The write data of the five commands (R82, R93). -/
def commandData (op : Nat) : Word := BitVec.ofNat 32 op

/-- A write access to word address `wa`. -/
def writeOf (wa : Nat) (v : Word) : Access := { we := true, wa := BitVec.ofNat 4 wa, wd := v }

/-- A read access of word address `wa`; `wd` is "written as 0 by the assembler" (R81). -/
def readOf (wa : Nat) : Access := { we := false, wa := BitVec.ofNat 4 wa, wd := 0#32 }

/-- The code word of an instruction, from the tables of R88 and R89. -/
def encode : Instr → CodeWord
  | .ldkey j v => .bus (writeOf j.val v).toBus
  | .rdkey j => .bus (readOf j.val).toBus
  | .ldblk j v => .bus (writeOf (8 + j.val) v).toBus
  | .rdblk j => .bus (readOf (8 + j.val)).toBus
  | .nop => .bus (writeOf 12 (commandData 0)).toBus
  | .enc => .bus (writeOf 12 (commandData 1)).toBus
  | .dec => .bus (writeOf 12 (commandData 2)).toBus
  | .clrerr => .bus (writeOf 12 (commandData 3)).toBus
  | .srst => .bus (writeOf 12 (commandData 4)).toBus
  | .cmd v => .bus (writeOf 12 v).toBus
  | .rdctrl => .bus (readOf 12).toBus
  | .wrstat v => .bus (writeOf 13 v).toBus
  | .rdstat => .bus (readOf 13).toBus
  | .wrrsv a0 v => .bus (writeOf (14 + a0.val) v).toBus
  | .rdrsv a0 => .bus (readOf (14 + a0.val)).toBus
  | .encround => .ctl 2#2
  | .decround => .ctl 3#2
  | .idle => .ctl 0#2

end Sys2Proof
end

