-- ==== Sys2Proof/Machine/State.lean ====
section
/-! DEFINITION. The machine's state: the registers of the table of 10_state.md R20, and two fields of the model's own, `rd` (what
the host port shows) and `agenda` (who moves next); the reasons a step can stop; the state after reset. -/

namespace Sys2Proof.Machine

/-- One turn of the execution order (00_scope.md R8, 20_memory.md R63): the model's own plain data for the
interleaving of the two agents and of reset (log 1). -/
inductive Turn where
  /-- The host performs an access. -/
  | access (a : Access)
  /-- The controller takes the step its selector names. -/
  | ctl
  /-- The reset event (70_reset_and_hazards.md R240). -/
  | reset
  /-- The host polls `STATUS` until `BUSY=0` (30_encoding.md R100 `WAIT`; log 3). -/
  | wait
deriving DecidableEq, Repr

/-- The state. `st` to `ecause` are the architectural state, every row of the table of 10_state.md R20 (the rows add up
to 395 bits where R20 says 400: log 14); `rd` and `agenda` are the model's own. -/
structure State where
  /-- `ST[0..3]`, the block state (R21). -/
  st : Block
  /-- `KEY[0..7]`, the key (R22). -/
  key : Key
  /-- `RND`, the round index of the round step that will run next (R26). -/
  rnd : Fin 16
  /-- `DIR`: false encrypt, true decrypt (R29). -/
  dir : Bool
  /-- `BUSY`: an operation is in progress (R27). -/
  busy : Bool
  /-- `DONE`: `ST` holds the result of a completed operation (R28). -/
  done : Bool
  /-- `ERR`, the sticky error flag (R30). -/
  err : Bool
  /-- `ECAUSE`, the cause code of the first error since `ERR` was last clear (R30). -/
  ecause : BitVec 3
  /-- The model's own: the read data the last step put on the host port, 0 when it was no read (20_memory.md
  R67; log 4). -/
  rd : Word
  /-- The model's own: the turns still to come, oldest first (log 1). -/
  agenda : List Turn
deriving DecidableEq, Repr

/-- Reasons to stop with a fault: none. "WXCORE has no state in which it stops" (93_implementation_defined.md,
section 2); an error of the host port is recorded and the machine goes on (60_exceptions.md R210). -/
inductive Fault where
deriving DecidableEq, Repr

/-- Reasons to refuse. No step answers one: they belong to calls that are no step of this hardware. -/
inductive Refusal where
  /-- An instruction without a meaning yet, raised in `exec` by name. Safe. No arm raises it now. -/
  | notModelled (mnemonic : String)
  /-- Raised by `memRead` and `memWrite` for a call that "is not an access of this hardware" (20_memory.md R58):
  a size other than 4, a misaligned offset, an offset above 60. Safe. -/
  | noSuchAccess
  /-- Raised by the meanings of `ENCROUND`, `DECROUND` and `IDLE` in a state whose selector `{BUSY, DIR}` names
  another row (30_encoding.md R89; log 6). Safe: `step` takes the row the state selects. -/
  | notSelected
  /-- Raised by the meaning of `CMD v` for `v` in 0..4, which is no reserved command (45_host_commands.md R190;
  log 7). Safe: no word decodes to it. -/
  | notReserved
deriving DecidableEq, Repr

/-- The state after reset: every register 0 (10_state.md R36, 70_reset_and_hazards.md R241), nothing on the read
data (log 4), nothing on the agenda (log 1). -/
def State.reset : State where
  st := ⟨0, 0, 0, 0⟩
  key := ⟨0, 0, 0, 0, 0, 0, 0, 0⟩
  rnd := 0
  dir := false
  busy := false
  done := false
  err := false
  ecause := 0
  rd := 0
  agenda := []

end Sys2Proof.Machine
end

