-- ==== Sys2Proof/Machine/Constants.lean ====
section
/-! DEFINITION. The values of the algorithm's constants, "taken as written" (92_eei_decisions.md D24; log 12). -/

namespace Sys2Proof.Machine

/-- The constants of 00_scope.md R5. -/
def params : Config.Params where
  c1 := 0xA5A5A5A5#32
  c2 := 0x3C3C3C3C#32
  rotConf := 7
  ksMulI := 73
  ksMulR := 91
  rfRotA := 3
  rfRotB := 5
  mixRot0 := 5
  mixRot1 := 11
  mixRot2 := 17
  mixRot3 := 23

end Sys2Proof.Machine
end

