-- ==== Sys2Proof/Machine/Operands.lean ====
section
/-! DEFINITION. Operands: the words of a block and of a key by index, the steering values assembled from the round
index and the word index (30_encoding.md R86), bytes into words and back (20_memory.md R50 to R52), and the
byte-addressed view of the window (R59). -/

namespace Sys2Proof

/-! ## Words of a block and of a key -/

/-- Word `i` of a block. -/
def Block.get (b : Block) (i : Fin 4) : Word :=
  match i with
  | 0 => b.w0
  | 1 => b.w1
  | 2 => b.w2
  | 3 => b.w3

/-- The block with word `i` replaced. -/
def Block.set (b : Block) (i : Fin 4) (v : Word) : Block :=
  match i with
  | 0 => { b with w0 := v }
  | 1 => { b with w1 := v }
  | 2 => { b with w2 := v }
  | 3 => { b with w3 := v }

/-- The block whose word `i` is `f i`. -/
def Block.ofFn (f : Fin 4 → Word) : Block := ⟨f 0, f 1, f 2, f 3⟩

/-- The words of a block, word 0 first. -/
def Block.toList (b : Block) : List Word := [b.w0, b.w1, b.w2, b.w3]

/-- Four words as a block; no other number of words is one (00_scope.md R4 (b)). -/
def Block.ofList : List Word → Option Block
  | [a, b, c, d] => some ⟨a, b, c, d⟩
  | _ => none

/-- Word `j` of a key. -/
def Key.get (k : Key) (j : Fin 8) : Word :=
  match j with
  | 0 => k.k0
  | 1 => k.k1
  | 2 => k.k2
  | 3 => k.k3
  | 4 => k.k4
  | 5 => k.k5
  | 6 => k.k6
  | 7 => k.k7

/-- The key with word `j` replaced. -/
def Key.set (k : Key) (j : Fin 8) (v : Word) : Key :=
  match j with
  | 0 => { k with k0 := v }
  | 1 => { k with k1 := v }
  | 2 => { k with k2 := v }
  | 3 => { k with k3 := v }
  | 4 => { k with k4 := v }
  | 5 => { k with k5 := v }
  | 6 => { k with k6 := v }
  | 7 => { k with k7 := v }

/-- The words of a key, word 0 first. -/
def Key.toList (k : Key) : List Word := [k.k0, k.k1, k.k2, k.k3, k.k4, k.k5, k.k6, k.k7]

/-- Eight words as a key; no other number of words is one (00_scope.md R4 (b)). -/
def Key.ofList : List Word → Option Key
  | [a, b, c, d, e, f, g, h] => some ⟨a, b, c, d, e, f, g, h⟩
  | _ => none

namespace Machine

/-! ## Steering values (30_encoding.md R86) -/

/-- `kidx = (i + r) mod 8`, the key-word index. -/
def kidx (r : Fin 16) (i : Fin 4) : Fin 8 := ⟨(i.val + r.val) % 8, Nat.mod_lt _ (by decide)⟩

/-- `kc = i*73 + r*91 truncated to 32 bits`, the subkey constant. -/
def kc (p : Config.Params) (r : Fin 16) (i : Fin 4) : Word :=
  BitVec.ofNat 32 (i.val * p.ksMulI + r.val * p.ksMulR)

/-- `ksh = (r + i) mod 32`, the subkey rotation. -/
def ksh (r : Fin 16) (i : Fin 4) : Nat := (r.val + i.val) % 32

/-- `ra = (r+3) mod 32`, the first round rotation. -/
def rotA (p : Config.Params) (r : Fin 16) : Nat := (r.val + p.rfRotA) % 32

/-- `rb = (r+5) mod 32`, the second round rotation. -/
def rotB (p : Config.Params) (r : Fin 16) : Nat := (r.val + p.rfRotB) % 32

/-! ## Bytes and words (20_memory.md R50 to R52) -/

/-- The word of four bytes, the first byte least significant (R50). -/
def wordOfBytes (b0 b1 b2 b3 : Byte) : Word := b3 ++ b2 ++ b1 ++ b0

/-- Byte `k` of a word: bits `8k+7:8k` (00_scope.md R9). -/
def byteOf (w : Word) (k : Nat) : Byte := w.extractLsb' (8 * k) 8

/-- `bytesToWords`: word `j` is made of bytes `4j` .. `4j+3` (R51, R52). Defined by the spec on lengths that are
multiples of 4; bytes left over make no word. -/
def bytesToWords : List Byte → List Word
  | b0 :: b1 :: b2 :: b3 :: rest => wordOfBytes b0 b1 b2 b3 :: bytesToWords rest
  | _ => []

/-- `wordsToBytes` (R52). -/
def wordsToBytes : List Word → List Byte
  | [] => []
  | w :: rest => byteOf w 0 :: byteOf w 1 :: byteOf w 2 :: byteOf w 3 :: wordsToBytes rest

/-- The block of sixteen bytes, and of no other number (60_exceptions.md R226). -/
def blockOfBytes (b : List Byte) : Option Block :=
  if b.length = 16 then Block.ofList (bytesToWords b) else none

/-- The key of thirty-two bytes, and of no other number (60_exceptions.md R226). -/
def keyOfBytes (b : List Byte) : Option Key :=
  if b.length = 32 then Key.ofList (bytesToWords b) else none

/-! ## The byte-addressed view (20_memory.md R59) -/

/-- The word address and the byte lane of byte address `addr`: `wa = off[5:2]`, lane `off[1:0]` for `addr = BASE +
off`, `off` = 0..63; no other address is in the window (R61). -/
def windowOf (addr : Nat) : Option (BitVec 4 × Fin 4) :=
  if Config.base ≤ addr ∧ addr < Config.base + Config.windowBytes then
    some (BitVec.ofNat 4 ((addr - Config.base) / 4), ⟨(addr - Config.base) % 4, Nat.mod_lt _ (by decide)⟩)
  else none

/-- The data bits of byte lane `k`: `8k+7:8k` (R59). -/
def laneOf (v : Word) (k : Fin 4) : Byte := byteOf v k.val

end Machine

end Sys2Proof
end

