-- ==== Sys2Proof/Machine/Arx.lean ====
section
/-! DEFINITION. The word primitives and the confusion layer (40_confusion_layer.md). Pure functions: no state, no
flag, no error (R116). -/

namespace Sys2Proof.Machine

/-- `ADD32(a, b)`: `(a + b) mod 2^32` (R110). -/
def add32 (a b : Word) : Word := BitVec.ofNat 32 (a.toNat + b.toNat)

/-- `SUB32(a, b)`: `a - b` if `a >= b`, and `a - b + 2^32` otherwise (R111). -/
def sub32 (a b : Word) : Word :=
  if b.toNat ≤ a.toNat then BitVec.ofNat 32 (a.toNat - b.toNat)
  else BitVec.ofNat 32 (2 ^ 32 + a.toNat - b.toNat)

/-- `XOR32(a, b)` (R112). -/
def xor32 (a b : Word) : Word := a ^^^ b

/-- `ROTL32(x, n)`, the amount taken modulo 32 and the amount 0 a case of its own (R113). -/
def rotl32 (x : Word) (n : Nat) : Word :=
  if n % 32 = 0 then x else (x <<< (n % 32)) ||| (x >>> (32 - n % 32))

/-- `ROTR32(x, n)` (R114). -/
def rotr32 (x : Word) (n : Nat) : Word :=
  if n % 32 = 0 then x else (x >>> (n % 32)) ||| (x <<< (32 - n % 32))

/-- `CONFUSE(x)`: XOR, then add, then rotate left (R119). -/
def confuse (p : Config.Params) (x : Word) : Word :=
  let t1 := xor32 x p.c1
  let t2 := add32 t1 p.c2
  rotl32 t2 p.rotConf

/-- `DECONFUSE(y)`: rotate right, then subtract, then XOR (R120). -/
def deconfuse (p : Config.Params) (y : Word) : Word :=
  let u1 := rotr32 y p.rotConf
  let u2 := sub32 u1 p.c2
  xor32 u2 p.c1

end Sys2Proof.Machine
end

