-- ==== Sys2Proof/Machine/KeySchedule.lean ====
section
/-! DEFINITION. The key-schedule subkey generator (41_key_schedule.md). -/

namespace Sys2Proof.Machine

/-- `SUBKEY(key, r, i)`: the XOR with the constant comes before the rotation (R130). -/
def subkey (p : Config.Params) (key : Key) (r : Fin 16) (i : Fin 4) : Word :=
  rotl32 (xor32 (key.get (kidx r i)) (kc p r i)) (ksh r i)

end Sys2Proof.Machine
end

