-- ==== Sys2Proof/Machine/RoundFunction.lean ====
section
/-! DEFINITION. The forward and inverse round functions on one word (42_round_functions.md). -/

namespace Sys2Proof.Machine

/-- `RF(x, k, r)`, steps 1 to 5 (R140). -/
def rf (p : Config.Params) (x k : Word) (r : Fin 16) : Word :=
  let s1 := add32 x k
  let s2 := confuse p s1
  let s3 := rotl32 s2 (rotA p r)
  let s4 := xor32 s3 k
  rotl32 s4 (rotB p r)

/-- `IRF(y, k, r)`, the steps undone from 5 to 1 (R141). -/
def irf (p : Config.Params) (y k : Word) (r : Fin 16) : Word :=
  let u5 := rotr32 y (rotB p r)
  let u4 := xor32 u5 k
  let u3 := rotr32 u4 (rotA p r)
  let u2 := deconfuse p u3
  sub32 u2 k

end Sys2Proof.Machine
end

