-- ==== Sys2Proof/Machine/MixLayer.lean ====
section
/-! DEFINITION. The forward and inverse mix layers on the whole state (43_mix_layers.md). -/

namespace Sys2Proof.Machine

/-- `MIX(s)`: the fourth update reads the new word 0 (R150). -/
def mix (p : Config.Params) (s : Block) : Block :=
  let a0 := xor32 s.w0 (rotl32 s.w1 p.mixRot0)
  let a1 := xor32 s.w1 (rotl32 s.w2 p.mixRot1)
  let a2 := xor32 s.w2 (rotl32 s.w3 p.mixRot2)
  let a3 := xor32 s.w3 (rotl32 a0 p.mixRot3)
  ⟨a0, a1, a2, a3⟩

/-- `IMIX(t)`: the same terms removed in the reverse order, each from the words restored so far; the rotations
stay to the left (R151). -/
def imix (p : Config.Params) (t : Block) : Block :=
  let b3 := xor32 t.w3 (rotl32 t.w0 p.mixRot3)
  let b2 := xor32 t.w2 (rotl32 b3 p.mixRot2)
  let b1 := xor32 t.w1 (rotl32 b2 p.mixRot1)
  let b0 := xor32 t.w0 (rotl32 b1 p.mixRot0)
  ⟨b0, b1, b2, b3⟩

end Sys2Proof.Machine
end

