-- ==== Sys2Proof/Machine/RoundLoop.lean ====
section
/-! DEFINITION. One round and a whole block, as pure functions (44_round_controller.md, section 1). -/

namespace Sys2Proof.Machine

/-- `RF` on every word, each under its own subkey (R161). -/
def rfAll (p : Config.Params) (s : Block) (key : Key) (r : Fin 16) : Block :=
  Block.ofFn fun i => rf p (s.get i) (subkey p key r i) r

/-- `IRF` on every word, each under its own subkey (R162). -/
def irfAll (p : Config.Params) (s : Block) (key : Key) (r : Fin 16) : Block :=
  Block.ofFn fun i => irf p (s.get i) (subkey p key r i) r

/-- `ENCROUND(s, key, r)`: the four round functions first, the mix layer last (R161, 90_conflicts.md C1). -/
def encRound (p : Config.Params) (s : Block) (key : Key) (r : Fin 16) : Block := mix p (rfAll p s key r)

/-- `DECROUND(s, key, r)`: the inverse mix layer first, then the four inverse round functions (R162). -/
def decRound (p : Config.Params) (s : Block) (key : Key) (r : Fin 16) : Block := irfAll p (imix p s) key r

/-- The state after `n` rounds of encryption, `s_n` of R163: rounds 0, 1, .., n-1. -/
def encRounds (p : Config.Params) (b : Block) (key : Key) : Nat → Block
  | 0 => b
  | n + 1 => encRound p (encRounds p b key n) key (Fin.ofNat 16 n)

/-- The state after `n` rounds of decryption, `t_(16-n)` of R164: rounds 15, 14, .., 16-n. -/
def decRounds (p : Config.Params) (c : Block) (key : Key) : Nat → Block
  | 0 => c
  | n + 1 => decRound p (decRounds p c key n) key (Fin.ofNat 16 (Config.nr - 1 - n))

/-- `ENCRYPT(p, key)`: sixteen rounds, r ascending, nothing before or after them (R163). -/
def encrypt (p : Config.Params) (b : Block) (key : Key) : Block := encRounds p b key Config.nr

/-- `DECRYPT(c, key)`: sixteen rounds, r descending (R164). -/
def decrypt (p : Config.Params) (c : Block) (key : Key) : Block := decRounds p c key Config.nr

/-- The source's `encryptBlock` on bytes: a value exactly for 16 bytes of block and 32 of key
(45_host_commands.md R196, 60_exceptions.md R226). -/
def encryptBytes (p : Config.Params) (b k : List Byte) : Option (List Byte) :=
  match blockOfBytes b, keyOfBytes k with
  | some blk, some key => some (wordsToBytes (encrypt p blk key).toList)
  | _, _ => none

/-- The source's `decryptBlock` on bytes (R196, R226). -/
def decryptBytes (p : Config.Params) (c k : List Byte) : Option (List Byte) :=
  match blockOfBytes c, keyOfBytes k with
  | some blk, some key => some (wordsToBytes (decrypt p blk key).toList)
  | _, _ => none

end Sys2Proof.Machine
end

