-- ==== Sys2Proof/Machine/Flags.lean ====
section
/-! DEFINITION. The flags: the status word (10_state.md R32), the controller's selector (30_encoding.md R84), the
error causes and the error record (60_exceptions.md R211, R212), and what starts and ends an operation. -/

namespace Sys2Proof.Machine

/-! ## The status word -/

/-- `STATUS = zext_32({ECAUSE, ERR, DIR, DONE, BUSY})` (10_state.md R32). -/
def statusWord (s : State) : Word :=
  (s.ecause ++ BitVec.ofBool s.err ++ BitVec.ofBool s.dir ++ BitVec.ofBool s.done ++ BitVec.ofBool s.busy).setWidth 32

/-- The fields of format `STAT` (30_encoding.md R83). -/
structure Stat where
  busy : Bool
  done : Bool
  dir : Bool
  err : Bool
  ecause : BitVec 3
deriving DecidableEq, Repr

/-- What a host reads from a status word: format `STAT`, decoded by the host (R80, R83). -/
def decodeStat (v : Word) : Stat where
  busy := v.getLsbD 0
  done := v.getLsbD 1
  dir := v.getLsbD 2
  err := v.getLsbD 3
  ecause := v.extractLsb' 4 3

/-- `S = {BUSY, DIR}`, the controller's selector (30_encoding.md R84). -/
def selector (s : State) : BitVec 2 := BitVec.ofBool s.busy ++ BitVec.ofBool s.dir

/-! ## Errors -/

/-- The causes a write can raise (60_exceptions.md R211). -/
inductive Cause where
  /-- A write of `KEY` or `ST`, `ENC` or `DEC` while `BUSY=1`. -/
  | eBusy
  /-- A `CTRL` write whose data is none of 0..4. -/
  | eIllCmd
  /-- A write to word address 13, 14 or 15. -/
  | eBadAddr
deriving DecidableEq, Repr

/-- The cause code recorded in `ECAUSE` (R211); 0 is `E_NONE`, 4 to 7 are never produced. -/
def Cause.code : Cause → BitVec 3
  | .eBusy => 1
  | .eIllCmd => 2
  | .eBadAddr => 3

/-- The report: the first error since `ERR` was clear is recorded, a later one leaves no trace (R212). -/
def report (e : Cause) (s : State) : State :=
  if s.err then s else { s with err := true, ecause := e.code }

/-- `ERR <- 0; ECAUSE <- 0`, the counterpart of a return (60_exceptions.md R219, 45_host_commands.md R188). -/
def clearError (s : State) : State := { s with err := false, ecause := 0 }

/-! ## An operation's beginning and end -/

/-- `BUSY <- 1; DIR <- 0; RND <- 0; DONE <- 0` (45_host_commands.md R186). -/
def startEnc (s : State) : State := { s with busy := true, dir := false, rnd := 0, done := false }

/-- `BUSY <- 1; DIR <- 1; RND <- 15; DONE <- 0` (R187). -/
def startDec (s : State) : State := { s with busy := true, dir := true, rnd := 15, done := false }

/-- `BUSY <- 0; DONE <- 1; RND <- 0`: the last round step (44_round_controller.md R165, R166). -/
def finishOp (s : State) : State := { s with busy := false, done := true, rnd := 0 }

end Sys2Proof.Machine
end

