-- ==== Sys2Proof/Machine/Ops.lean ====
section
/-! DEFINITION. The operations the meanings share: how a step ends on the host port, raising an error and
clearing it, the access primitives `MemRead` and `MemWrite` of the register window (20_memory.md R56 to R58),
reset, and the controller's round step. -/

namespace Sys2Proof.Machine

/-! ## How a step ends -/

/-- A step that is no read: the read data is 0 "in every other cycle" (20_memory.md R67). -/
def accept (s : State) : Host.Outcome State Fault Refusal := .next { s with rd := 0 }

/-- A read: it changes no state and puts `v` on the read data (20_memory.md R56, R67). -/
def reply (v : Word) (s : State) : Host.Outcome State Fault Refusal := .next { s with rd := v }

/-- `raise E`: the error is reported and the write is dropped (60_exceptions.md R210, R212). This is all the
exception entry there is (R218). -/
def raise (e : Cause) (s : State) : Host.Outcome State Fault Refusal := accept (report e s)

/-- A write that `BUSY=1` drops with `E_BUSY` (20_memory.md R57 line 6); else `k`. -/
def whenIdle (s : State) (k : State) : Host.Outcome State Fault Refusal :=
  if s.busy then raise .eBusy s else accept k

/-! ## Register writes -/

/-- `KEY[j] <- v` (45_host_commands.md R181). -/
def writeKey (j : Fin 8) (v : Word) (s : State) : State := { s with key := s.key.set j v }

/-- `ST[j] <- v; DONE <- 0` (R183). -/
def writeBlk (j : Fin 4) (v : Word) (s : State) : State := { s with st := s.st.set j v, done := false }

/-- Every register at its reset value (10_state.md R36), as `SRST` and the reset event leave it; the turns still
to come are the environment's and stay. -/
def resetRegs (s : State) : State := { State.reset with agenda := s.agenda }

/-! ## The register window -/

/-- `ST[j]` if `BUSY=0`, else 0 (45_host_commands.md R184). -/
def readBlk (j : Fin 4) (s : State) : Word := if s.busy then 0 else s.st.get j

/-- The value a read of word address `wa` returns (20_memory.md R56). -/
def windowRead (wa : BitVec 4) (s : State) : Word :=
  if wa.toNat < 8 then 0
  else if wa.toNat < 12 then readBlk (blockIndex wa) s
  else if wa.toNat = 12 then 0
  else if wa.toNat = 13 then statusWord s
  else 0

/-- A write of word address `wa`, "decoded in this order" (20_memory.md R57, lines 1 to 10). -/
def windowWrite (wa : BitVec 4) (wd : Word) (s : State) : Host.Outcome State Fault Refusal :=
  if 13 ≤ wa.toNat then raise .eBadAddr s
  else if wa.toNat = 12 ∧ (cmdZ wd ≠ 0#29 ∨ 5 ≤ (cmdOp wd).toNat) then raise .eIllCmd s
  else if wa.toNat = 12 ∧ (cmdOp wd).toNat = 0 then accept s
  else if wa.toNat = 12 ∧ (cmdOp wd).toNat = 3 then accept (clearError s)
  else if wa.toNat = 12 ∧ (cmdOp wd).toNat = 4 then accept (resetRegs s)
  else if s.busy then raise .eBusy s
  else if wa.toNat < 8 then accept (writeKey (keyIndex wa) wd s)
  else if wa.toNat < 12 then accept (writeBlk (blockIndex wa) wd s)
  else if (cmdOp wd).toNat = 1 then accept (startEnc s)
  else accept (startDec s)

/-- An access exists only for `n = 4`, `off mod 4 = 0`, `0 <= off <= 60` (20_memory.md R58). -/
def isAccess (off n : Nat) : Bool := n == 4 && off % 4 == 0 && decide (off ≤ 60)

/-- `MemRead(off, n)` (R56, R58). -/
def memRead (off n : Nat) (s : State) : Host.Outcome Word Fault Refusal :=
  if isAccess off n then .next (windowRead (BitVec.ofNat 4 (off / 4)) s) else .refused .noSuchAccess

/-- `MemWrite(off, n, wd)` (R57, R58). -/
def memWrite (off n : Nat) (wd : Word) (s : State) : Host.Outcome State Fault Refusal :=
  if isAccess off n then windowWrite (BitVec.ofNat 4 (off / 4)) wd s else .refused .noSuchAccess

/-! ## Reset -/

/-- The reset event: "every piece of state takes the value of 10_state.md rule R36" (70_reset_and_hazards.md
R240). -/
def resetEvent (s : State) : State := resetRegs s

/-! ## The controller's round steps -/

/-- The writes of an `ENCROUND` step, all together (44_round_controller.md R165). -/
def encStep (s : State) : State :=
  let s1 := { s with st := encRound params s.st s.key s.rnd }
  if s.rnd = 15 then finishOp s1 else { s1 with rnd := s.rnd + 1 }

/-- The writes of a `DECROUND` step, all together (R166). -/
def decStep (s : State) : State :=
  let s1 := { s with st := decRound params s.st s.key s.rnd }
  if s.rnd = 0 then finishOp s1 else { s1 with rnd := s.rnd - 1 }

end Sys2Proof.Machine
end

