-- ==== Sys2Proof/Machine/Commands.lean ====
section
/-! DEFINITION. The commands, writes to `CTRL`, and the read of `CTRL` (45_host_commands.md, section 2). -/

namespace Sys2Proof.Machine

/-- `NOP`: no change, in any state (R185). -/
def execNop (s : State) : Host.Outcome State Fault Refusal := accept s

/-- `ENC` (R186). -/
def execEnc (s : State) : Host.Outcome State Fault Refusal := whenIdle s (startEnc s)

/-- `DEC` (R187). -/
def execDec (s : State) : Host.Outcome State Fault Refusal := whenIdle s (startDec s)

/-- `CLRERR`, in any state (R188). -/
def execClrerr (s : State) : Host.Outcome State Fault Refusal := accept (clearError s)

/-- `SRST`, in any state (R189). -/
def execSrst (s : State) : Host.Outcome State Fault Refusal := accept (resetRegs s)

/-- `CMD v`, a reserved command: `E_ILLCMD` in any state, busy or not (R190). For `v` in 0..4 the term is no
instruction (log 7). -/
def execCmd (v : Word) (s : State) : Host.Outcome State Fault Refusal :=
  if 4 < v.toNat then raise .eIllCmd s else .refused .notReserved

/-- `RDCTRL`: 0, `CTRL` has no storage (R191). -/
def execRdctrl (s : State) : Host.Outcome State Fault Refusal := reply 0 s

end Sys2Proof.Machine
end

