-- ==== Sys2Proof/Machine/Controller.lean ====
section
/-! DEFINITION. The controller's steps (44_round_controller.md, section 2). Each is enabled exactly when the selector
`{BUSY, DIR}` names it (30_encoding.md R89); `step` takes no other (log 6). -/

namespace Sys2Proof.Machine

/-- The `ENCROUND` step, "enabled when `BUSY=1` and `DIR=0`" (R165). -/
def execEncround (s : State) : Host.Outcome State Fault Refusal :=
  if s.busy && !s.dir then accept (encStep s) else .refused .notSelected

/-- The `DECROUND` step, "enabled when `BUSY=1` and `DIR=1`" (R166). -/
def execDecround (s : State) : Host.Outcome State Fault Refusal :=
  if s.busy && s.dir then accept (decStep s) else .refused .notSelected

/-- `IDLE`: when `BUSY=0` the controller "has no step and changes nothing" (R160). -/
def execIdle (s : State) : Host.Outcome State Fault Refusal :=
  if s.busy then .refused .notSelected else accept s

end Sys2Proof.Machine
end

