-- ==== Sys2Proof/Machine/KeyBlock.lean ====
section
/-! DEFINITION. Key and block transfer (45_host_commands.md, section 1). -/

namespace Sys2Proof.Machine

/-- `LDKEY j, v` (R181). -/
def execLdkey (j : Fin 8) (v : Word) (s : State) : Host.Outcome State Fault Refusal :=
  whenIdle s (writeKey j v s)

/-- `RDKEY j`: 0 in any state; "the key cannot be read back" (R182). -/
def execRdkey (_j : Fin 8) (s : State) : Host.Outcome State Fault Refusal := reply 0 s

/-- `LDBLK j, v` (R183). -/
def execLdblk (j : Fin 4) (v : Word) (s : State) : Host.Outcome State Fault Refusal :=
  whenIdle s (writeBlk j v s)

/-- `RDBLK j` (R184). -/
def execRdblk (j : Fin 4) (s : State) : Host.Outcome State Fault Refusal := reply (readBlk j s) s

end Sys2Proof.Machine
end

