-- ==== Sys2Proof/Machine/Status.lean ====
section
/-! DEFINITION. Status and reserved addresses (45_host_commands.md, section 3). -/

namespace Sys2Proof.Machine

/-- `RDSTAT` (R192). -/
def execRdstat (s : State) : Host.Outcome State Fault Refusal := reply (statusWord s) s

/-- `WRSTAT v`: `STATUS` is read-only (R193). -/
def execWrstat (_v : Word) (s : State) : Host.Outcome State Fault Refusal := raise .eBadAddr s

/-- `WRRSV a, v` (R194). -/
def execWrrsv (_a0 : Fin 2) (_v : Word) (s : State) : Host.Outcome State Fault Refusal := raise .eBadAddr s

/-- `RDRSV a` (R195). -/
def execRdrsv (_a0 : Fin 2) (s : State) : Host.Outcome State Fault Refusal := reply 0 s

end Sys2Proof.Machine
end

