-- ==== Sys2Proof/Machine/Dispatch.lean ====
section
/-! DEFINITION. One arm per instruction. -/

namespace Sys2Proof.Machine

/-- The meaning of an instruction. -/
def exec (i : Instr) (s : State) : Host.Outcome State Fault Refusal :=
  match i with
  | .ldkey j v => Sys2Proof.Machine.execLdkey j v s
  | .rdkey j => Sys2Proof.Machine.execRdkey j s
  | .ldblk j v => Sys2Proof.Machine.execLdblk j v s
  | .rdblk j => Sys2Proof.Machine.execRdblk j s
  | .nop => Sys2Proof.Machine.execNop s
  | .enc => Sys2Proof.Machine.execEnc s
  | .dec => Sys2Proof.Machine.execDec s
  | .clrerr => Sys2Proof.Machine.execClrerr s
  | .srst => Sys2Proof.Machine.execSrst s
  | .cmd v => Sys2Proof.Machine.execCmd v s
  | .rdctrl => Sys2Proof.Machine.execRdctrl s
  | .wrstat v => Sys2Proof.Machine.execWrstat v s
  | .rdstat => Sys2Proof.Machine.execRdstat s
  | .wrrsv a0 v => Sys2Proof.Machine.execWrrsv a0 v s
  | .rdrsv a0 => Sys2Proof.Machine.execRdrsv a0 s
  | .encround => Sys2Proof.Machine.execEncround s
  | .decround => Sys2Proof.Machine.execDecround s
  | .idle => Sys2Proof.Machine.execIdle s

end Sys2Proof.Machine
end

