-- ==== Sys2Proof/Machine/Turns.lean ====
section
/-! DEFINITION. Who moves next (00_scope.md R8, 20_memory.md R63): the next turn of the agenda, and what a turn
does. -/

namespace Sys2Proof.Machine

/-- The access `RDSTAT`, as `WAIT` repeats it (30_encoding.md R100). -/
def statAccess : Access := readOf 13

/-- The agenda after a poll: the host goes on waiting, and the controller moves before the next poll, while the
value read has bit 0 (`BUSY`) = 1 (30_encoding.md R100; log 3). -/
def afterPoll (s : State) (rest : List Turn) : List Turn :=
  if (decodeStat (statusWord s)).busy then .ctl :: .wait :: rest else rest

/-- The turn that is taken next, and the state it is taken in. With nothing listed the controller moves (log 2);
a wait is a poll. -/
def nextTurn (s : State) : Turn × State :=
  match s.agenda with
  | [] => (.ctl, s)
  | .access a :: rest => (.access a, { s with agenda := rest })
  | .ctl :: rest => (.ctl, { s with agenda := rest })
  | .reset :: rest => (.reset, { s with agenda := rest })
  | .wait :: rest => (.access statAccess, { s with agenda := afterPoll s rest })

/-- The instruction the controller's selector names (30_encoding.md R84, R89). -/
def ctlInstr (s : State) : Instr := decodeCtl (selector s)

/-- What a turn does: an access is decoded and executed, the controller takes the step it has, a reset clears. -/
def runTurn (t : Turn) (s : State) : Host.Outcome State Fault Refusal :=
  match t with
  | .access a => exec (decodeAccess a) s
  | .ctl => exec (ctlInstr s) s
  | .reset => accept (resetEvent s)
  | .wait => exec (decodeAccess statAccess) s

/-- Turns in order, each seeing the state the one before it left (20_memory.md R63). -/
def runTurns : List Turn → State → Host.Outcome State Fault Refusal
  | [], s => .next s
  | t :: rest, s =>
    match runTurn t s with
    | .next s' => runTurns rest s'
    | .fault f => .fault f
    | .refused r => .refused r

/-- `s` with a table word stored where the next step takes its instruction from: a transaction word as an access
at the head of the agenda, a selector in `BUSY` and `DIR` with the controller to move (log 1). -/
def placeWord (c : CodeWord) (s : State) : State :=
  match c with
  | .bus t => { s with agenda := .access (Access.ofBus t) :: s.agenda }
  | .ctl sel => { s with busy := sel.getLsbD 1, dir := sel.getLsbD 0, agenda := .ctl :: s.agenda }

end Sys2Proof.Machine
end

