-- ==== Sys2Proof/Machine/Step.lean ====
section
/-! DEFINITION. One step of the machine: the next turn is taken (Machine/Turns.lean). -/

namespace Sys2Proof.Machine

/-- One step. -/
def step (s : State) : Host.Outcome State Fault Refusal := runTurn (nextTurn s).1 (nextTurn s).2

/-- `s` with the table word `w` of `nbits` bits placed so that the next step runs it (`placeWord`); a number that
is no word of its format places nothing. -/
def State.withFetchWord (s : State) (nbits w : Nat) : State :=
  match codeWord (formatOf nbits) w with
  | .ok c => placeWord c s
  | .error _ => s

end Sys2Proof.Machine
end

