-- ==== Sys2Proof/Machine/Execution.lean ====
section
/-! DEFINITION. Infinite executions and weak fairness (70_reset_and_hazards.md R256): what an agenda, a finite list, does
not hold. The machine's step is `Machine/Step.lean`; a turn does here what it does there, `runTurn`. -/

namespace Sys2Proof.Machine

/-- `σ 0, σ 1, ..` are the states of an execution that takes the turns `turn 0, turn 1, ..`: "a single total order of
steps" (20_memory.md R63), any interleaving of host accesses and controller steps (00_scope.md R8), with reset anywhere
(70_reset_and_hazards.md R240). "Nothing is assumed of the host" (R256): it may issue accesses for ever, or none. The
controller's turn while `BUSY=0` changes no register, so an execution that ends there is one that goes on with such turns. A
wait is the polls it makes, and is no turn of its own. -/
def IsExecution (σ : Nat → State) (turn : Nat → Turn) : Prop :=
  ∀ n : Nat, turn n ≠ .wait ∧ runTurn (turn n) (σ n) = .next (σ (n + 1))

/-- "The controller is weakly fair: .. if `BUSY=1` holds continuously then a round step eventually occurs" (R256). -/
def WeaklyFair (σ : Nat → State) (turn : Nat → Turn) : Prop :=
  ∀ n : Nat, (∀ m : Nat, n ≤ m → (σ m).busy = true) → ∃ m : Nat, n ≤ m ∧ turn m = .ctl

end Sys2Proof.Machine
end

