-- ==== Sys2Proof/Machine/Port.lean ====
section
/-! DEFINITION. The host port and one clock cycle (20_memory.md R67, 70_reset_and_hazards.md R240, R257): how a
clocked implementation maps onto the total order of turns. -/

namespace Sys2Proof.Machine

/-- The inputs of one clock cycle (R67). -/
structure PortIn where
  /-- Synchronous reset, active high. -/
  rst : Bool
  /-- The host performs an access. -/
  sel : Bool
  /-- With `sel=1`: 1 write, 0 read. -/
  we : Bool
  /-- The word address. -/
  wa : BitVec 4
  /-- The write data. -/
  wd : Word
deriving DecidableEq, Repr

/-- The outputs (R67, 10_state.md R38). -/
structure PortOut where
  rd : Word
  doneO : Bool
  errO : Bool
deriving DecidableEq, Repr

/-- The pin `done_o` (10_state.md R38). -/
def doneO (s : State) : Bool := s.done

/-- The pin `err_o` (10_state.md R38). -/
def errO (s : State) : Bool := s.err

/-- The outputs in a cycle whose starting state is `s`: the read data is `MemRead(4*wa, 4)` "in a cycle with
`sel=1, we=0`", and "0 in every other cycle" (R67; log 13). -/
def portOut (p : PortIn) (s : State) : PortOut where
  rd := if p.sel && !p.we then windowRead p.wa s else 0
  doneO := doneO s
  errO := errO s

/-- The turns a cycle contributes to the order, `s` its starting state and `roundEnds` whether a round step in
progress completes in it: reset wins over everything; an access comes before the round step; a cycle that starts
with `BUSY=0` completes none (R257). `roundEnds` stands for `T_ROUND`, on which no rule depends (R254). -/
def cycleTurns (p : PortIn) (roundEnds : Bool) (s : State) : List Turn :=
  if p.rst then [.reset]
  else
    (if p.sel then [.access { we := p.we, wa := p.wa, wd := p.wd }] else []) ++
    (if roundEnds && s.busy then [.ctl] else [])

/-- One clock cycle. -/
def clockCycle (p : PortIn) (roundEnds : Bool) (s : State) : Host.Outcome State Fault Refusal :=
  runTurns (cycleTurns p roundEnds s) s

end Sys2Proof.Machine
end

