-- ==== Sys2Proof/Machine/Script.lean ====
section
/-! DEFINITION. The host script (30_encoding.md R93) and the pseudo-instructions (R100): what each statement stands
for. The script has no meaning of its own; a statement is one access, `STEP n` is `n` controller turns. -/

namespace Sys2Proof.Machine

/-- The statements of R93, with `CMD v`, `WR a, v` and `RD a` as generic spellings. -/
inductive Stmt where
  | ldkey (j : Fin 8) (v : Word)
  | rdkey (j : Fin 8)
  | ldblk (j : Fin 4) (v : Word)
  | rdblk (j : Fin 4)
  | nop
  | enc
  | dec
  | clrerr
  | srst
  | cmd (v : Word)
  | rdctrl
  | wrstat (v : Word)
  | rdstat
  | wrrsv (a0 : Fin 2) (v : Word)
  | rdrsv (a0 : Fin 2)
  | wr (a : Fin 16) (v : Word)
  | rd (a : Fin 16)
  | step (n : Nat)
deriving DecidableEq, Repr

/-- The statement's transaction word by the formulas of R93; `STEP` "has no encoding". -/
def stmtCode : Stmt → Option Nat
  | .ldkey j v => some (0x1000000000 + j.val * 0x100000000 + v.toNat)
  | .rdkey j => some (j.val * 0x100000000)
  | .ldblk j v => some (0x1800000000 + j.val * 0x100000000 + v.toNat)
  | .rdblk j => some (0x0800000000 + j.val * 0x100000000)
  | .nop => some 0x1C00000000
  | .enc => some 0x1C00000001
  | .dec => some 0x1C00000002
  | .clrerr => some 0x1C00000003
  | .srst => some 0x1C00000004
  | .cmd v => some (0x1C00000000 + v.toNat)
  | .rdctrl => some 0x0C00000000
  | .wrstat v => some (0x1D00000000 + v.toNat)
  | .rdstat => some 0x0D00000000
  | .wrrsv a0 v => some (0x1000000000 + (14 + a0.val) * 0x100000000 + v.toNat)
  | .rdrsv a0 => some ((14 + a0.val) * 0x100000000)
  | .wr a v => some (0x1000000000 + a.val * 0x100000000 + v.toNat)
  | .rd a => some (a.val * 0x100000000)
  | .step _ => none

/-- The access a statement is; "`CMD v` with `v` in 0..4 is the same access as the named command", `WR` and `RD` are
generic spellings (R93). -/
def stmtInstr : Stmt → Option Instr
  | .ldkey j v => some (.ldkey j v)
  | .rdkey j => some (.rdkey j)
  | .ldblk j v => some (.ldblk j v)
  | .rdblk j => some (.rdblk j)
  | .nop => some .nop
  | .enc => some .enc
  | .dec => some .dec
  | .clrerr => some .clrerr
  | .srst => some .srst
  | .cmd v => some (decodeCommand v)
  | .rdctrl => some .rdctrl
  | .wrstat v => some (.wrstat v)
  | .rdstat => some .rdstat
  | .wrrsv a0 v => some (.wrrsv a0 v)
  | .rdrsv a0 => some (.rdrsv a0)
  | .wr a v => some (decodeAccess (writeOf a.val v))
  | .rd a => some (decodeAccess (readOf a.val))
  | .step _ => none

/-- The turn of a transaction word. -/
def turnOf (t : Nat) : Turn := .access (Access.ofBus (BitVec.ofNat 37 t))

/-- The turns a statement stands for: "exactly one host access", or for `STEP n` "`n` consecutive controller round
steps" (R93). -/
def stmtTurns (c : Stmt) : List Turn :=
  match c with
  | .step n => List.replicate n .ctl
  | c => ((stmtCode c).map turnOf).toList

/-- The turns of a script. -/
def scriptTurns (script : List Stmt) : List Turn := script.flatMap stmtTurns

/-- `LOADKEY k0, .., k7`: `LDKEY 0, k0` .. `LDKEY 7, k7` (R100). -/
def loadKey (k : Key) : List Turn :=
  scriptTurns [.ldkey 0 k.k0, .ldkey 1 k.k1, .ldkey 2 k.k2, .ldkey 3 k.k3,
    .ldkey 4 k.k4, .ldkey 5 k.k5, .ldkey 6 k.k6, .ldkey 7 k.k7]

/-- `LOADBLK w0, .., w3`: `LDBLK 0, w0` .. `LDBLK 3, w3` (R100). -/
def loadBlk (b : Block) : List Turn := scriptTurns [.ldblk 0 b.w0, .ldblk 1 b.w1, .ldblk 2 b.w2, .ldblk 3 b.w3]

/-- `READBLK`: `RDBLK 0` .. `RDBLK 3` (R100). -/
def readBlock : List Turn := scriptTurns [.rdblk 0, .rdblk 1, .rdblk 2, .rdblk 3]

/-- `ENCRYPTINTO P` (R100). -/
def encryptInto (b : Block) : List Turn := loadBlk b ++ scriptTurns [.enc] ++ [.wait] ++ readBlock

/-- `DECRYPTINTO C` (R100). -/
def decryptInto (c : Block) : List Turn := loadBlk c ++ scriptTurns [.dec] ++ [.wait] ++ readBlock

/-- `ENCRYPTBLOCK P, K` (R100; the transaction of 45_host_commands.md R196). -/
def encryptBlock (b : Block) (k : Key) : List Turn := loadKey k ++ encryptInto b

/-- `DECRYPTBLOCK C, K` (R100, R196). -/
def decryptBlock (c : Block) (k : Key) : List Turn := loadKey k ++ decryptInto c

/-- `BLOCKSIZE`: "no access; the constant 16" (R100). -/
def blockSize : Nat := 16

/-! ## How a statement is written (R93) -/

/-- `v` as "a 32-bit literal `0xHHHHHHHH`". -/
def literal (v : Word) : String :=
  "0x" ++ String.ofList ((List.range 8).map fun k =>
    ("0123456789ABCDEF".toList.getD (v.toNat / 16 ^ (7 - k) % 16) '0'))

/-- The text of a statement: "a mnemonic .. followed by its operands separated by commas", indices and word addresses
in decimal. -/
def stmtText : Stmt → String
  | .ldkey j v => "LDKEY " ++ toString j.val ++ ", " ++ literal v
  | .rdkey j => "RDKEY " ++ toString j.val
  | .ldblk j v => "LDBLK " ++ toString j.val ++ ", " ++ literal v
  | .rdblk j => "RDBLK " ++ toString j.val
  | .nop => "NOP"
  | .enc => "ENC"
  | .dec => "DEC"
  | .clrerr => "CLRERR"
  | .srst => "SRST"
  | .cmd v => "CMD " ++ literal v
  | .rdctrl => "RDCTRL"
  | .wrstat v => "WRSTAT " ++ literal v
  | .rdstat => "RDSTAT"
  | .wrrsv a0 v => "WRRSV " ++ toString (14 + a0.val) ++ ", " ++ literal v
  | .rdrsv a0 => "RDRSV " ++ toString (14 + a0.val)
  | .wr a v => "WR " ++ toString a.val ++ ", " ++ literal v
  | .rd a => "RD " ++ toString a.val
  | .step n => "STEP " ++ toString n

end Sys2Proof.Machine
end

