-- ==== Sys2Proof/Safety.lean ====
section
/-! DEFINITION. The terms claims are stated in: the invariant of 10_state.md R37, what a quiet turn is, and when no
error was raised (60_exceptions.md R215). -/

namespace Sys2Proof

/-- The access is a read. -/
def Instr.isRead : Instr → Bool
  | .rdkey _ => true
  | .rdblk _ => true
  | .rdctrl => true
  | .rdstat => true
  | .rdrsv _ => true
  | .ldkey _ _ => false
  | .ldblk _ _ => false
  | .nop => false
  | .enc => false
  | .dec => false
  | .clrerr => false
  | .srst => false
  | .cmd _ => false
  | .wrstat _ => false
  | .wrrsv _ _ => false
  | .encround => false
  | .decround => false
  | .idle => false

/-- The access neither writes `ST` nor starts an operation (20_memory.md R63 (b)); a controller's row is no access. -/
def Instr.keepsBlock : Instr → Bool
  | .ldblk _ _ => false
  | .enc => false
  | .dec => false
  | .srst => false
  | .encround => false
  | .decround => false
  | .ldkey _ _ => true
  | .rdkey _ => true
  | .rdblk _ => true
  | .nop => true
  | .clrerr => true
  | .cmd _ => true
  | .rdctrl => true
  | .wrstat _ => true
  | .rdstat => true
  | .wrrsv _ _ => true
  | .rdrsv _ => true
  | .idle => true

namespace Machine

/-- 10_state.md R37 (a) to (c): states violating it are "known to be unreachable". -/
structure State.Inv (s : State) : Prop where
  /-- (a) `BUSY=1` implies `DONE=0`. -/
  busy_not_done : s.busy = true → s.done = false
  /-- (b) `BUSY=0` implies `RND=0`. -/
  idle_rnd : s.busy = false → s.rnd = 0
  /-- (c) `ERR=0` if and only if `ECAUSE=0`. -/
  err_iff : s.err = false ↔ s.ecause = 0
  /-- (c) `ECAUSE` is one of 0, 1, 2, 3. -/
  ecause_le : s.ecause.toNat ≤ 3

/-- The turn neither resets the registers nor waits: the controller's turn, or a host access other than `SRST`
("provided no `SRST` and no reset falls in between", 44_round_controller.md R169). -/
def Turn.quiet : Turn → Bool
  | .access a => decide (decodeAccess a ≠ .srst)
  | .ctl => true
  | .reset => false
  | .wait => false

/-- No error is recorded: the premise of a claim about an intended result (60_exceptions.md R215,
70_reset_and_hazards.md R249). -/
def State.errorFree (s : State) : Bool := !s.err

/-- The state after a dropped write, written out: the report of 60_exceptions.md R212 with cause code `e`, and
no read data. -/
def dropped (e : BitVec 3) (s : State) : State :=
  { s with err := true, ecause := if s.err then s.ecause else e, rd := 0 }

/-- The turn neither writes `ST` nor starts an operation, nor resets (20_memory.md R63 (b)). -/
def Turn.keepsBlock : Turn → Bool
  | .access a => (decodeAccess a).keepsBlock
  | .ctl => true
  | .reset => false
  | .wait => false

end Machine

end Sys2Proof
end

