-- ==== Sys2Proof/Certificates/Slice0/Obligations.lean ====
section
/-! DEFINITION. The statements for the provers. `dropped e s` is the state after a dropped write (60_exceptions.md R212,
Sys2Proof/Safety.lean); `rd` and `agenda` are the model's own fields (log 1, log 4). -/

open Sys2Proof Sys2Proof.Machine

/-! ## Encoding -/

/-- Decoding an encoded instruction gives it back, for every instruction and every operand (30_encoding.md R88, R89). -/
def Obligations.DecodeOfEncodeIsIdentity : Prop :=
  ∀ i : Instr, i.wellFormed = true → decode (encode i) = i

/-- The other direction: a write's word and a selector of a step are encoded back bit for bit; `wd` of a read is
ignored ("every value decodes alike", R81) and encoded as 0, and so is `DIR` of `IDLE`. -/
def Obligations.EncodeOfDecodeIsCanonical : Prop :=
  (∀ t : BitVec 37, encode (decodeBus t) =
    .bus (if busWe t then t else Access.toBus { we := false, wa := busWa t, wd := 0 })) ∧
  (∀ (wa : BitVec 4) (wd wd' : Word),
    decodeBus (Access.toBus { we := false, wa := wa, wd := wd }) =
      decodeBus (Access.toBus { we := false, wa := wa, wd := wd' })) ∧
  (∀ s : BitVec 2, encode (decodeCtl s) = .ctl (if s.getLsbD 1 then s else 0))

/-- R88 and R89: the first row whose mask and match fit is the row of the decoded instruction, so the rows cover every
word; and two rows that fit one word are the same row or row 10 (`CMD`) with one of rows 5 to 9. -/
def Obligations.OpcodeTableSelectsTheDecodedRow : Prop :=
  (∀ t : BitVec 37, busRowOf t = some (decodeBus t).mnemonic) ∧
  (∀ (t : BitVec 37) (r r' : BusRow), r ∈ busTable → r' ∈ busTable → r.selects t = true → r'.selects t = true →
    r = r' ∨ (r.mnemonic = "CMD" ∧ r' ∈ busCommandRows) ∨ (r'.mnemonic = "CMD" ∧ r ∈ busCommandRows)) ∧
  (∀ s : BitVec 2, ctlRowOf s = some (decodeCtl s).mnemonic)

/-- R93: every statement but `STEP` has a transaction word and an instruction; the formula of the statement gives the
word of the access it names, and the statement's one turn is that access; `CMD v` with `v` in 0..4 is the named command;
`STEP n` is `n` controller turns, is no access and has no encoding. -/
def Obligations.ScriptStatementsAreTheirAccesses : Prop :=
  (∀ c : Stmt, (∀ n : Nat, c ≠ .step n) →
    ∃ (n : Nat) (i : Instr), stmtCode c = some n ∧ stmtInstr c = some i) ∧
  (∀ (c : Stmt) (n : Nat) (i : Instr), stmtCode c = some n → stmtInstr c = some i →
    n < 2 ^ 37 ∧ decodeBus (BitVec.ofNat 37 n) = i ∧
    stmtTurns c = [.access (Access.ofBus (BitVec.ofNat 37 n))]) ∧
  stmtCode (.cmd 0) = stmtCode .nop ∧ stmtCode (.cmd 1) = stmtCode .enc ∧ stmtCode (.cmd 2) = stmtCode .dec ∧
  stmtCode (.cmd 3) = stmtCode .clrerr ∧ stmtCode (.cmd 4) = stmtCode .srst ∧
  (∀ n : Nat, stmtTurns (.step n) = List.replicate n .ctl ∧ stmtCode (.step n) = none ∧ stmtInstr (.step n) = none)

/-- Words of 95_test_vectors.md V-HOST, one for each family, decode to the instruction they stand for. -/
def Obligations.SampleWordsDecode : Prop :=
  decodeTableWord 40 0x130F0E0D0C = some (.ldkey 3 0x0F0E0D0C) ∧
  decodeTableWord 40 0x0300000000 = some (.rdkey 3) ∧
  decodeTableWord 40 0x1ADEADBEEF = some (.ldblk 2 0xDEADBEEF) ∧
  decodeTableWord 40 0x1C00000001 = some .enc ∧
  decodeTableWord 40 0x1C00000009 = some (.cmd 0x00000009) ∧
  decodeTableWord 40 0x1F12345678 = some (.wrrsv 1 0x12345678) ∧
  decodeTableWord 8 0x3 = some .decround

/-! ## Key and block transfer -/

/-- R181, whole: the encoding, the drop while busy, the one word written. -/
def Obligations.LdkeyWritesOneKeyWord : Prop :=
  ∀ (j : Fin 8) (v : Word) (s : State),
    decode (.bus (BitVec.ofNat 37 (0x1000000000 + j.val * 0x100000000 + v.toNat))) = .ldkey j v ∧
    (s.busy = true → exec (.ldkey j v) s = .next (dropped 1 s)) ∧
    (s.busy = false →
      exec (.ldkey j v) s = .next { s with key := s.key.set j v, rd := 0 } ∧
      ∀ i : Fin 8, (s.key.set j v).get i = if i = j then v else s.key.get i)

/-- R183, whole: the encoding, the drop while busy, the one word written and `DONE` cleared, even when the word
written is the word there. -/
def Obligations.LdblkWritesOneBlockWord : Prop :=
  ∀ (j : Fin 4) (v : Word) (s : State),
    decode (.bus (BitVec.ofNat 37 (0x1800000000 + j.val * 0x100000000 + v.toNat))) = .ldblk j v ∧
    (s.busy = true → exec (.ldblk j v) s = .next (dropped 1 s)) ∧
    (s.busy = false →
      exec (.ldblk j v) s = .next { s with st := s.st.set j v, done := false, rd := 0 } ∧
      ∀ i : Fin 4, (s.st.set j v).get i = if i = j then v else s.st.get i)

/-- R182, R191, R195, whole: the reads that return 0 in every state and change nothing, with any `wd`. -/
def Obligations.WriteOnlyAndReservedWordsReadZero : Prop :=
  ∀ (j : Fin 8) (a0 : Fin 2) (wd : Word) (s : State),
    decode (.bus (BitVec.ofNat 37 (j.val * 0x100000000 + wd.toNat))) = .rdkey j ∧
    decode (.bus (BitVec.ofNat 37 (0x0C00000000 + wd.toNat))) = .rdctrl ∧
    decode (.bus (BitVec.ofNat 37 ((14 + a0.val) * 0x100000000 + wd.toNat))) = .rdrsv a0 ∧
    exec (.rdkey j) s = .next { s with rd := 0 } ∧
    exec .rdctrl s = .next { s with rd := 0 } ∧
    exec (.rdrsv a0) s = .next { s with rd := 0 }

/-- R184, whole: `ST[j]` when idle, whatever `DONE` is; 0 and no error while busy; the rule's example last. -/
def Obligations.RdblkReadsTheBlockWhenIdle : Prop :=
  ∀ (j : Fin 4) (wd : Word) (s : State),
    decode (.bus (BitVec.ofNat 37 (0x0800000000 + j.val * 0x100000000 + wd.toNat))) = .rdblk j ∧
    (s.busy = false → exec (.rdblk j) s = .next { s with rd := s.st.get j }) ∧
    (s.busy = true → exec (.rdblk j) s = .next { s with rd := 0 }) ∧
    (encrypt params ⟨0, 0, 0, 0⟩ ⟨0, 0, 0, 0, 0, 0, 0, 0⟩).get 0 = 0xEBB400F1#32

/-! ## Commands and status -/

/-- R185, whole: no change, in any state. -/
def Obligations.NopChangesNothing : Prop :=
  decode (.bus 0x1C00000000#37) = .nop ∧ ∀ s : State, exec .nop s = .next { s with rd := 0 }

/-- R186, whole. -/
def Obligations.EncStartsAnEncryption : Prop :=
  decode (.bus 0x1C00000001#37) = .enc ∧
  ∀ s : State,
    (s.busy = true → exec .enc s = .next (dropped 1 s)) ∧
    (s.busy = false →
      exec .enc s = .next { s with busy := true, dir := false, rnd := 0, done := false, rd := 0 }) ∧
    (s = State.reset → ∃ t, exec .enc s = .next t ∧ statusWord t = 0x00000001#32)

/-- R187, whole. -/
def Obligations.DecStartsADecryption : Prop :=
  decode (.bus 0x1C00000002#37) = .dec ∧
  ∀ s : State,
    (s.busy = true → exec .dec s = .next (dropped 1 s)) ∧
    (s.busy = false →
      exec .dec s = .next { s with busy := true, dir := true, rnd := 15, done := false, rd := 0 }) ∧
    (s = State.reset → ∃ t, exec .dec s = .next t ∧ statusWord t = 0x00000005#32)

/-- R188, whole: the return of 60_exceptions.md R219; with no error recorded it changes nothing (in a state that
meets R37). -/
def Obligations.ClrerrClearsTheErrorRecord : Prop :=
  decode (.bus 0x1C00000003#37) = .clrerr ∧
  ∀ s : State,
    exec .clrerr s = .next { s with err := false, ecause := 0, rd := 0 } ∧
    (s.Inv → s.err = false → exec .clrerr s = .next { s with rd := 0 })

/-- R189 and R242, with R36: `SRST` and the reset event leave one and the same state, every register and every pin at
0. The agenda is the environment's and stays. -/
def Obligations.SrstAndResetClearEverything : Prop :=
  decode (.bus 0x1C00000004#37) = .srst ∧
  (∀ (s : State) (rest : List Turn),
    exec .srst s = .next { State.reset with agenda := s.agenda } ∧
    step { s with agenda := .reset :: rest } = .next { State.reset with agenda := rest }) ∧
  (∀ i : Fin 4, State.reset.st.get i = 0) ∧ (∀ j : Fin 8, State.reset.key.get j = 0) ∧
  State.reset.rnd = 0 ∧ State.reset.dir = false ∧ State.reset.busy = false ∧ State.reset.done = false ∧
  State.reset.err = false ∧ State.reset.ecause = 0 ∧ statusWord State.reset = 0 ∧
  doneO State.reset = false ∧ errO State.reset = false

/-- R190, whole: a reserved command is dropped with `E_ILLCMD` in any state, busy or not. -/
def Obligations.ReservedCommandsAreIllegal : Prop :=
  ∀ (v : Word) (s : State), 4 < v.toNat →
    decode (.bus (BitVec.ofNat 37 (0x1C00000000 + v.toNat))) = .cmd v ∧
    exec (.cmd v) s = .next (dropped 2 s)

/-- R193 and R194, whole: writes to `STATUS` and to words 14 and 15 are dropped with `E_BADADDR` in any state. -/
def Obligations.WritesToBadAddressesAreDropped : Prop :=
  ∀ (a0 : Fin 2) (v : Word) (s : State),
    decode (.bus (BitVec.ofNat 37 (0x1D00000000 + v.toNat))) = .wrstat v ∧
    decode (.bus (BitVec.ofNat 37 (0x1000000000 + (14 + a0.val) * 0x100000000 + v.toNat))) = .wrrsv a0 v ∧
    exec (.wrstat v) s = .next (dropped 3 s) ∧
    exec (.wrrsv a0 v) s = .next (dropped 3 s)

/-- R192, whole: the status word, bit by bit, the fields a host decodes from it (R83), and in a state that meets R37
the values a host can see. -/
def Obligations.RdstatReadsTheFlags : Prop :=
  ∀ (wd : Word) (s : State),
    decode (.bus (BitVec.ofNat 37 (0x0D00000000 + wd.toNat))) = .rdstat ∧
    exec .rdstat s = .next { s with rd := statusWord s } ∧
    (statusWord s).toNat =
      s.busy.toNat + 2 * s.done.toNat + 4 * s.dir.toNat + 8 * s.err.toNat + 16 * s.ecause.toNat ∧
    decodeStat (statusWord s) = ⟨s.busy, s.done, s.dir, s.err, s.ecause⟩ ∧
    (s.Inv → ∃ a ∈ [0x00, 0x01, 0x05, 0x02, 0x06, 0x04], ∃ b ∈ [0x00, 0x18, 0x28, 0x38],
      (statusWord s).toNat = a + b)

/-! ## The controller -/

/-- R165, whole: the selector, the writes, all together, and what stays; the rule's example last. -/
def Obligations.EncroundStepRunsOneRound : Prop :=
  decode (.ctl 0b10#2) = .encround ∧
  ∀ s : State, s.busy = true → s.dir = false →
    ctlInstr s = .encround ∧
    exec .encround s = .next
      (if s.rnd = 15 then
        { s with st := encRound params s.st s.key s.rnd, busy := false, done := true, rnd := 0, rd := 0 }
      else { s with st := encRound params s.st s.key s.rnd, rnd := s.rnd + 1, rd := 0 }) ∧
    encRound params ⟨0, 0, 0, 0⟩ ⟨0, 0, 0, 0, 0, 0, 0, 0⟩ 0 =
      ⟨0xE7CCA6EE, 0x55766520, 0xA5F56648, 0x98AFCDA3⟩

/-- R166, whole; the rule's example last. -/
def Obligations.DecroundStepRunsOneRound : Prop :=
  decode (.ctl 0b11#2) = .decround ∧
  ∀ s : State, s.busy = true → s.dir = true →
    ctlInstr s = .decround ∧
    exec .decround s = .next
      (if s.rnd = 0 then
        { s with st := decRound params s.st s.key s.rnd, busy := false, done := true, rnd := 0, rd := 0 }
      else { s with st := decRound params s.st s.key s.rnd, rnd := s.rnd - 1, rd := 0 }) ∧
    decRound params ⟨0xEBB400F1, 0x23FD251D, 0x747E957F, 0x3D254B6B⟩ ⟨0, 0, 0, 0, 0, 0, 0, 0⟩ 15 =
      ⟨0x192B3F9F, 0x8E057985, 0x6445DCAC, 0xF1F857E9⟩

/-- R160: with `BUSY=0` the selector is `IDLE`, whatever `DIR` is, and nothing changes. -/
def Obligations.IdleControllerChangesNothing : Prop :=
  decode (.ctl 0b00#2) = .idle ∧ decode (.ctl 0b01#2) = .idle ∧
  ∀ s : State, s.busy = false → ctlInstr s = .idle ∧ exec .idle s = .next { s with rd := 0 }

/-- The model's choice (log 6, log 7): a controller row that the state does not select, and a term `CMD v` that is no
reserved command, are refused under names of their own. -/
def Obligations.TermsThatAreNoStepAreRefused : Prop :=
  ∀ (s : State) (v : Word),
    ((s.busy = false ∨ s.dir = true) → exec .encround s = .refused .notSelected) ∧
    ((s.busy = false ∨ s.dir = false) → exec .decround s = .refused .notSelected) ∧
    (s.busy = true → exec .idle s = .refused .notSelected) ∧
    (v.toNat ≤ 4 → exec (.cmd v) s = .refused .notReserved)

/-! ## Steps -/

/-- A step runs the instruction its turn decodes to: the access at the head of the agenda, else the controller's
selector; the turn is taken off the agenda first. The other turns are the model's own (log 1 to log 3). -/
def Obligations.StepRunsTheDecodedInstruction : Prop :=
  ∀ (s : State) (a : Access) (rest : List Turn),
    step { s with agenda := .access a :: rest } = exec (decodeAccess a) { s with agenda := rest } ∧
    step { s with agenda := .ctl :: rest } = exec (decodeCtl (selector s)) { s with agenda := rest } ∧
    step { s with agenda := [] } = exec (decodeCtl (selector s)) { s with agenda := [] } ∧
    step { s with agenda := .wait :: rest } =
      exec .rdstat { s with agenda := if s.busy then .ctl :: .wait :: rest else rest } ∧
    (∀ (nbits w : Nat) (i : Instr), 8 < nbits → decodeTableWord nbits w = some i →
      step (s.withFetchWord nbits w) = exec i s) ∧
    (∀ (nbits w : Nat) (i : Instr), nbits ≤ 8 → decodeTableWord nbits w = some i →
      step (s.withFetchWord nbits w) = exec i { s with busy := w.testBit 1, dir := w.testBit 0 })

/-- The machine never stops: every state has a next state (60_exceptions.md R210, R225; 93_implementation_defined.md,
"WXCORE has no state in which it stops"). -/
def Obligations.EveryStateHasANextState : Prop :=
  ∀ s : State, ∃ t : State, step s = .next t

/-- R37 (a) to (c) is kept by every step, from every state that meets it. -/
def Obligations.StepKeepsTheInvariant : Prop :=
  ∀ s t : State, s.Inv → step s = .next t → t.Inv

/-- R37 (a) to (c) holds at reset, and after the reset event in any state. -/
def Obligations.ResetMeetsTheInvariant : Prop :=
  State.reset.Inv ∧ ∀ s t : State, runTurn .reset s = .next t → t.Inv

/-! ## What an access can do -/

/-- R56 and R58: a host read of word address `wa` is `MemRead(4*wa, 4)`, changes nothing, and its value is the list
of R56; a call that is no access is refused. -/
def Obligations.HostReadsAreMemRead : Prop :=
  ∀ (wa : BitVec 4) (wd : Word) (s : State),
    (∃ v : Word, memRead (4 * wa.toNat) 4 s = .next v ∧
      exec (decodeAccess { we := false, wa := wa, wd := wd }) s = .next { s with rd := v } ∧
      (wa.toNat < 8 → v = 0) ∧
      (∀ j : Fin 4, wa.toNat = 8 + j.val → v = if s.busy then 0 else s.st.get j) ∧
      (wa.toNat = 12 → v = 0) ∧ (wa.toNat = 13 → v = statusWord s) ∧ (14 ≤ wa.toNat → v = 0)) ∧
    (∀ off n : Nat, ¬(n = 4 ∧ off % 4 = 0 ∧ off ≤ 60) → memRead off n s = .refused .noSuchAccess)

/-- R57 and R58: a host write of word address `wa` is `MemWrite(4*wa, 4, wd)`, the first line of R57 that applies
decides; a call that is no access is refused. -/
def Obligations.HostWritesAreMemWrite : Prop :=
  ∀ (wa : BitVec 4) (wd : Word) (s : State),
    exec (decodeAccess { we := true, wa := wa, wd := wd }) s = memWrite (4 * wa.toNat) 4 wd s ∧
    memWrite (4 * wa.toNat) 4 wd s = .next
      (if 13 ≤ wa.toNat then dropped 3 s
      else if wa.toNat = 12 ∧ 4 < wd.toNat then dropped 2 s
      else if wa.toNat = 12 ∧ wd.toNat = 0 then { s with rd := 0 }
      else if wa.toNat = 12 ∧ wd.toNat = 3 then { s with err := false, ecause := 0, rd := 0 }
      else if wa.toNat = 12 ∧ wd.toNat = 4 then { State.reset with agenda := s.agenda }
      else if s.busy then dropped 1 s
      else if h : wa.toNat < 8 then { s with key := s.key.set ⟨wa.toNat, h⟩ wd, rd := 0 }
      else if wa.toNat < 12 then { s with st := s.st.set (blockIndex wa) wd, done := false, rd := 0 }
      else if wd.toNat = 1 then { s with busy := true, dir := false, rnd := 0, done := false, rd := 0 }
      else { s with busy := true, dir := true, rnd := 15, done := false, rd := 0 }) ∧
    (∀ off n : Nat, ¬(n = 4 ∧ off % 4 = 0 ∧ off ≤ 60) → memWrite off n wd s = .refused .noSuchAccess)

/-- The column "written by" of the table of R20, register by register: an instruction that changes a register is one
of its writers; only a read puts a value on the read data; no instruction touches the agenda. -/
def Obligations.RegistersChangeOnlyByTheirWriters : Prop :=
  ∀ (i : Instr) (s t : State), exec i s = .next t →
    (t.st ≠ s.st → i = .srst ∨ (∃ j v, i = .ldblk j v ∧ s.busy = false) ∨ i = .encround ∨ i = .decround) ∧
    (t.key ≠ s.key → i = .srst ∨ ∃ j v, i = .ldkey j v ∧ s.busy = false) ∧
    (t.rnd ≠ s.rnd → i = .srst ∨ ((i = .enc ∨ i = .dec) ∧ s.busy = false) ∨ i = .encround ∨ i = .decround) ∧
    (t.dir ≠ s.dir → i = .srst ∨ ((i = .enc ∨ i = .dec) ∧ s.busy = false)) ∧
    (t.busy ≠ s.busy → i = .srst ∨ ((i = .enc ∨ i = .dec) ∧ s.busy = false) ∨
      (i = .encround ∧ s.rnd = 15) ∨ (i = .decround ∧ s.rnd = 0)) ∧
    (t.done ≠ s.done → i = .srst ∨ ((i = .enc ∨ i = .dec) ∧ s.busy = false) ∨
      (∃ j v, i = .ldblk j v ∧ s.busy = false) ∨ (i = .encround ∧ s.rnd = 15) ∨ (i = .decround ∧ s.rnd = 0)) ∧
    (t.err ≠ s.err ∨ t.ecause ≠ s.ecause → i = .srst ∨ i = .clrerr ∨
      (∃ v, i = .cmd v) ∨ (∃ v, i = .wrstat v) ∨ (∃ a0 v, i = .wrrsv a0 v) ∨
      (s.busy = true ∧ (i = .enc ∨ i = .dec ∨ (∃ j v, i = .ldkey j v) ∨ ∃ j v, i = .ldblk j v))) ∧
    (t.rd ≠ 0 → i.isRead = true) ∧
    t.agenda = s.agenda

/-- R25, whole: the triple (`BUSY`, `DIR`, `RND`) after any instruction and after the reset event; "any pair not
listed leaves the triple unchanged". -/
def Obligations.SequencingStateMovesAsListed : Prop :=
  (∀ (i : Instr) (s t : State), exec i s = .next t →
    (t.busy, t.dir, t.rnd) =
      match i with
      | .enc => if s.busy then (s.busy, s.dir, s.rnd) else (true, false, 0)
      | .dec => if s.busy then (s.busy, s.dir, s.rnd) else (true, true, 15)
      | .encround => if s.rnd = 15 then (false, false, 0) else (true, false, s.rnd + 1)
      | .decround => if s.rnd = 0 then (false, true, 0) else (true, true, s.rnd - 1)
      | .srst => (false, false, 0)
      | _ => (s.busy, s.dir, s.rnd)) ∧
  (∀ s t : State, exec .encround s = .next t → s.rnd = 15 → t.done = true) ∧
  (∀ s t : State, exec .decround s = .next t → s.rnd = 0 → t.done = true) ∧
  (∀ s t : State, runTurn .reset s = .next t → (t.busy, t.dir, t.rnd) = (false, false, 0))

/-- R215: an error recorded inhibits nothing. Two states that differ in `ERR` and `ECAUSE` alone take every
instruction alike; only `RDSTAT` shows the difference. -/
def Obligations.ErrorsDoNotInhibit : Prop :=
  ∀ (i : Instr) (s t : State) (e : Bool) (c : BitVec 3), exec i s = .next t →
    ∃ t' : State, exec i { s with err := e, ecause := c } = .next t' ∧
      { t' with err := t.err, ecause := t.ecause, rd := t.rd } = t ∧ (i ≠ .rdstat → t'.rd = t.rd)

/-- R22, R182: no access shows the key. Two states that differ in `KEY` alone answer every access with the same read
data and differ in `KEY` alone afterwards. -/
def Obligations.NoAccessShowsTheKey : Prop :=
  ∀ (a : Access) (s t : State) (k : Key), exec (decodeAccess a) s = .next t →
    ∃ t' : State, exec (decodeAccess a) { s with key := k } = .next t' ∧
      t'.rd = t.rd ∧ { t' with key := t.key } = t

/-- R35 (c), R27: while `BUSY=1` no access shows the block, the key or the round index. -/
def Obligations.NoAccessShowsARunningOperation : Prop :=
  ∀ (a : Access) (s t : State) (b : Block) (k : Key) (r : Fin 16), s.busy = true →
    exec (decodeAccess a) s = .next t →
    ∃ t' : State, exec (decodeAccess a) { s with st := b, key := k, rnd := r } = .next t' ∧
      t'.rd = t.rd ∧ { t' with st := t.st, key := t.key, rnd := t.rnd } = t

/-- R60: every access but an accepted `ENC` or `DEC` is idempotent; an accepted `ENC` or `DEC` is not. -/
def Obligations.AccessesAreIdempotentButForStarts : Prop :=
  (∀ (i : Instr) (s t : State), i ≠ .encround → i ≠ .decround → (i = .enc ∨ i = .dec → s.busy = true) →
    exec i s = .next t → exec i t = .next t) ∧
  (∀ s t : State, s.busy = false → s.err = false →
    (exec .enc s = .next t → exec .enc t ≠ .next t) ∧ (exec .dec s = .next t → exec .dec t ≠ .next t))

/-- R65, R169: while `BUSY=1` every access other than `SRST` completes and changes nothing but the error record. -/
def Obligations.AccessesLeaveARunningOperationAlone : Prop :=
  ∀ (a : Access) (s : State), s.busy = true → decodeAccess a ≠ .srst →
    ∃ t : State, exec (decodeAccess a) s = .next t ∧ { s with err := t.err, ecause := t.ecause, rd := t.rd } = t

/-! ## The functions -/

/-- R110, R111, R112: wrap-around addition and subtraction, exclusive or, and their laws. -/
def Obligations.WordArithmeticWraps : Prop :=
  ∀ a b c : Word,
    (add32 a b).toNat = (a.toNat + b.toNat) % 2 ^ 32 ∧
    add32 a b = add32 b a ∧ add32 (add32 a b) c = add32 a (add32 b c) ∧ add32 a 0 = a ∧
    (sub32 a b).toNat = (if b.toNat ≤ a.toNat then a.toNat - b.toNat else a.toNat + 2 ^ 32 - b.toNat) ∧
    sub32 a 0 = a ∧ sub32 a a = 0 ∧ sub32 (add32 a b) b = a ∧ add32 (sub32 a b) b = a ∧
    (∀ n : Nat, n < 32 → (xor32 a b).getLsbD n = (a.getLsbD n != b.getLsbD n)) ∧
    xor32 a b = xor32 b a ∧ xor32 (xor32 a b) c = xor32 a (xor32 b c) ∧ xor32 a 0 = a ∧ xor32 a a = 0 ∧
    xor32 (xor32 a b) b = a

/-- R113, R114: where every bit goes, for every amount, and the laws of rotation; rotation keeps the number of 1 bits,
distributes over XOR and not over addition. -/
def Obligations.RotationsMoveEveryBit : Prop :=
  (∀ (x y : Word) (n m : Nat),
    (∀ p : Nat, p < 32 → (rotl32 x n).getLsbD ((p + n) % 32) = x.getLsbD p) ∧
    (∀ p : Nat, p < 32 → (rotr32 x n).getLsbD p = x.getLsbD ((p + n) % 32)) ∧
    rotl32 x n = rotl32 x (n % 32) ∧ rotl32 x 0 = x ∧
    rotl32 (rotl32 x n) m = rotl32 x (n + m) ∧
    rotl32 (xor32 x y) n = xor32 (rotl32 x n) (rotl32 y n) ∧
    rotr32 x n = rotl32 x ((32 - n % 32) % 32) ∧
    rotr32 (rotl32 x n) n = x ∧ rotl32 (rotr32 x n) n = x ∧
    (List.range 32).countP (fun p => (rotl32 x n).getLsbD p) = (List.range 32).countP (fun p => x.getLsbD p)) ∧
  (∃ (x y : Word) (n : Nat), rotl32 (add32 x y) n ≠ add32 (rotl32 x n) (rotl32 y n))

/-- R121, for every value of the constants. -/
def Obligations.ConfusionIsABijection : Prop :=
  ∀ (p : Config.Params) (x : Word), deconfuse p (confuse p x) = x ∧ confuse p (deconfuse p x) = x

/-- R143, for every value of the constants; not with another subkey or another round index. -/
def Obligations.RoundFunctionIsABijection : Prop :=
  (∀ (p : Config.Params) (x k : Word) (r : Fin 16), irf p (rf p x k r) k r = x ∧ rf p (irf p x k r) k r = x) ∧
  (∃ (x k k' : Word) (r : Fin 16), irf params (rf params x k r) k' r ≠ x) ∧
  (∃ (x k : Word) (r r' : Fin 16), irf params (rf params x k r) k r' ≠ x)

/-- R153, for every value of the rotation amounts. -/
def Obligations.MixLayerIsABijection : Prop :=
  ∀ (p : Config.Params) (s : Block), imix p (mix p s) = s ∧ mix p (imix p s) = s

/-- R152: the closed forms, and linearity over XOR. -/
def Obligations.MixLayerHasItsClosedForms : Prop :=
  (∀ s : Block, mix params s =
    ⟨s.w0 ^^^ rotl32 s.w1 5, s.w1 ^^^ rotl32 s.w2 11, s.w2 ^^^ rotl32 s.w3 17,
      s.w3 ^^^ rotl32 s.w0 23 ^^^ rotl32 s.w1 28⟩) ∧
  (∀ t : Block, imix params t =
    ⟨t.w0 ^^^ rotl32 t.w1 5 ^^^ rotl32 t.w2 16 ^^^ rotl32 t.w3 1 ^^^ rotl32 t.w0 24,
      t.w1 ^^^ rotl32 t.w2 11 ^^^ rotl32 t.w3 28 ^^^ rotl32 t.w0 19,
      t.w2 ^^^ rotl32 t.w3 17 ^^^ rotl32 t.w0 8,
      t.w3 ^^^ rotl32 t.w0 23⟩) ∧
  (∀ s t : Block, ∀ i : Fin 4,
    (mix params (Block.ofFn fun i => s.get i ^^^ t.get i)).get i = (mix params s).get i ^^^ (mix params t).get i ∧
    (imix params (Block.ofFn fun i => s.get i ^^^ t.get i)).get i = (imix params s).get i ^^^ (imix params t).get i) ∧
  mix params ⟨0, 0, 0, 0⟩ = ⟨0, 0, 0, 0⟩

/-- R154 (c), hazard H7: reading the old word 0 in the fourth update is wrong whenever word 1 is not 0, and only
then. -/
def Obligations.MixReadsTheNewWordZero : Prop :=
  ∀ s : Block, (mix params s).w3 ≠ xor32 s.w3 (rotl32 s.w0 23) ↔ s.w1 ≠ 0

/-- R131, R142, with the ranges of 30_encoding.md R86: the key-word index is reduced modulo 8 and takes every value; with
the constants of the spec the subkey constant is exact; the reductions of the rotation amounts modulo 32 never act, and
only `(r, i) = (0, 0)` rotates by 0. -/
def Obligations.SteeringValuesStayInRange : Prop :=
  ∀ (p : Config.Params) (r : Fin 16) (i : Fin 4),
    (kidx r i).val = (i.val + r.val) % 8 ∧
    (kc p r i).toNat = (i.val * p.ksMulI + r.val * p.ksMulR) % 2 ^ 32 ∧
    (kc params r i).toNat = i.val * 73 + r.val * 91 ∧ (kc params r i).toNat ≤ 1584 ∧
    ksh r i = r.val + i.val ∧ ksh r i ≤ 18 ∧ (ksh r i = 0 ↔ r = 0 ∧ i = 0) ∧
    rotA params r = r.val + 3 ∧ rotB params r = r.val + 5 ∧
    (∀ j : Fin 8, ∃ (r' : Fin 16) (i' : Fin 4), kidx r' i' = j)

/-- R134 (e): changing key word `j` changes exactly the subkeys of the pairs with `(i + r) mod 8 = j`, 8 of the 64. -/
def Obligations.KeyWordsReachTheirSubkeys : Prop :=
  (∀ (p : Config.Params) (key : Key) (j : Fin 8) (v : Word) (r : Fin 16) (i : Fin 4), v ≠ key.get j →
    (subkey p (key.set j v) r i ≠ subkey p key r i ↔ kidx r i = j)) ∧
  (∀ j : Fin 8,
    ((List.finRange 16).flatMap fun r => (List.finRange 4).filter fun i => kidx r i = j).length = 8)

/-- R23: a round reads four key words, `KEY[(RND+0) mod 8]` to `KEY[(RND+3) mod 8]`. -/
def Obligations.ARoundReadsFourKeyWords : Prop :=
  ∀ (p : Config.Params) (s : Block) (key key' : Key) (r : Fin 16),
    (∀ i : Fin 4, key.get (kidx r i) = key'.get (kidx r i)) →
    encRound p s key r = encRound p s key' r ∧ decRound p s key r = decRound p s key' r

/-- R171, on the functions: decryption undoes encryption and encryption decryption, round by round and whole, for every
value of the constants. -/
def Obligations.DecryptUndoesEncrypt : Prop :=
  ∀ (p : Config.Params) (b : Block) (key : Key),
    (∀ r : Fin 16, decRound p (encRound p b key r) key r = b ∧ encRound p (decRound p b key r) key r = b) ∧
    decrypt p (encrypt p b key) key = b ∧ encrypt p (decrypt p b key) key = b

/-! ## Bytes -/

/-- R53: the two conversions undo each other. -/
def Obligations.BytesAndWordsRoundTrip : Prop :=
  (∀ b : List Byte, b.length % 4 = 0 → wordsToBytes (bytesToWords b) = b) ∧
  (∀ w : List Word, bytesToWords (wordsToBytes w) = w)

/-- R52: the index formulas of the two conversions. -/
def Obligations.BytesAndWordsByIndex : Prop :=
  (∀ (b : List Byte) (n j : Nat), b.length = 4 * n → j < n →
    (bytesToWords b).length = n ∧
    ((bytesToWords b).getD j 0).toNat =
      (b.getD (4 * j) 0).toNat + (b.getD (4 * j + 1) 0).toNat * 2 ^ 8 +
      (b.getD (4 * j + 2) 0).toNat * 2 ^ 16 + (b.getD (4 * j + 3) 0).toNat * 2 ^ 24) ∧
  (∀ (w : List Word) (k : Nat), k < 4 * w.length →
    (wordsToBytes w).length = 4 * w.length ∧
    ((wordsToBytes w).getD k 0).toNat = ((w.getD (k / 4) 0).toNat >>> (8 * (k % 4))) % 2 ^ 8)

/-- R55, R59: through the byte-addressed view, block byte `n` lies at offset `0x20 + n` of the window, wherever the
platform puts it; an address outside the 64 bytes is in no word. -/
def Obligations.BlockBytesLieAtTheirOffsets : Prop :=
  (∀ (n : Nat) (s : State), n < 16 → s.busy = false →
    ∃ (wa : BitVec 4) (lane : Fin 4), windowOf (Config.base + 0x20 + n) = some (wa, lane) ∧
      laneOf (windowRead wa s) lane = (wordsToBytes s.st.toList).getD n 0) ∧
  (∀ off : Nat, off < 64 → ∃ (wa : BitVec 4) (lane : Fin 4), windowOf (Config.base + off) = some (wa, lane) ∧
    off = 4 * wa.toNat + lane.val) ∧
  (∀ addr : Nat, addr < Config.base ∨ Config.base + 64 ≤ addr → windowOf addr = none)

/-- R196, R226 on bytes: for 16 bytes of block and 32 of key, encryption gives 16 bytes and decryption gives the block
back; no other lengths have a result. -/
def Obligations.ByteLevelRoundTrip : Prop :=
  (∀ b k : List Byte, b.length = 16 → k.length = 32 →
    ∃ c : List Byte, encryptBytes params b k = some c ∧ c.length = 16 ∧ decryptBytes params c k = some b) ∧
  (∀ b k : List Byte, b.length ≠ 16 ∨ k.length ≠ 32 →
    encryptBytes params b k = none ∧ decryptBytes params b k = none)

/-! ## Operations of the machine -/

/-- R37 (d), R65: after an accepted start and any quiet turns, `n` of them the controller's and `n` at most 15, the
operation runs: exactly `n` rounds are done, `RND` counts them, and the key is the key at the start. -/
def Obligations.ARunningOperationCountsItsRounds : Prop :=
  ∀ (s : State) (ts rest : List Turn), s.busy = false → (∀ u ∈ ts, u.quiet = true) → ts.count .ctl ≤ 15 →
    (∃ t : State, core.run (1 + ts.length) { s with agenda := turnOf 0x1C00000001 :: (ts ++ rest) } = .next t ∧
      t.busy = true ∧ t.done = false ∧ t.dir = false ∧ t.rnd.val = ts.count .ctl ∧ t.key = s.key ∧
      t.st = encRounds params s.st s.key (ts.count .ctl) ∧ t.agenda = rest) ∧
    (∃ t : State, core.run (1 + ts.length) { s with agenda := turnOf 0x1C00000002 :: (ts ++ rest) } = .next t ∧
      t.busy = true ∧ t.done = false ∧ t.dir = true ∧ t.rnd.val = 15 - ts.count .ctl ∧ t.key = s.key ∧
      t.st = decRounds params s.st s.key (ts.count .ctl) ∧ t.agenda = rest)

/-- R169, R172: `ENC` and sixteen controller turns, with any host accesses but `SRST` between them, encrypt `ST` under
`KEY`. -/
def Obligations.EncryptionByTheMachine : Prop :=
  ∀ (s : State) (ts rest : List Turn), s.busy = false → (∀ u ∈ ts, u.quiet = true) → ts.count .ctl = 15 →
    ∃ t : State,
      core.run (1 + ts.length + 1) { s with agenda := turnOf 0x1C00000001 :: (ts ++ .ctl :: rest) } = .next t ∧
      t.st = encrypt params s.st s.key ∧ t.key = s.key ∧ t.busy = false ∧ t.done = true ∧ t.dir = false ∧
      t.rnd = 0 ∧ t.agenda = rest

/-- R170, R172: the same with `DEC`. -/
def Obligations.DecryptionByTheMachine : Prop :=
  ∀ (s : State) (ts rest : List Turn), s.busy = false → (∀ u ∈ ts, u.quiet = true) → ts.count .ctl = 15 →
    ∃ t : State,
      core.run (1 + ts.length + 1) { s with agenda := turnOf 0x1C00000002 :: (ts ++ .ctl :: rest) } = .next t ∧
      t.st = decrypt params s.st s.key ∧ t.key = s.key ∧ t.busy = false ∧ t.done = true ∧ t.dir = true ∧
      t.rnd = 0 ∧ t.agenda = rest

/-- R171, in the machine: `ENC`, sixteen steps, `DEC`, sixteen steps leave `ST` and `KEY` as they were. -/
def Obligations.EncThenDecRestoresTheBlock : Prop :=
  ∀ (s : State) (rest : List Turn), s.busy = false →
    ∃ t : State,
      core.run 34 { s with agenda := scriptTurns [.enc, .step 16, .dec, .step 16] ++ rest } = .next t ∧
      t.st = s.st ∧ t.key = s.key ∧ t.busy = false ∧ t.done = true ∧ t.dir = true ∧ t.rnd = 0 ∧
      t.err = s.err ∧ t.ecause = s.ecause ∧ t.agenda = rest

/-- R172, R256: left alone, a running operation ends by itself after the rounds it has left, at most sixteen, and not
before. That the controller moves when nothing is on the agenda is the model's choice (log 2). -/
def Obligations.ABusyControllerFinishes : Prop :=
  ∀ s : State, s.busy = true → s.agenda = [] →
    ∃ n : Nat, 1 ≤ n ∧ n ≤ 16 ∧ n = (if s.dir then s.rnd.val + 1 else 16 - s.rnd.val) ∧
      (∃ t : State, core.run n s = .next t ∧ t.busy = false ∧ t.done = true ∧ t.rnd = 0) ∧
      (∀ m : Nat, m < n → ∃ u : State, core.run m s = .next u ∧ u.busy = true)

/-- R256, whole: in every weakly fair execution, whatever the host does, an accepted `ENC` or `DEC` runs on, busy, until
`SRST` or reset cuts it short or it ends with `DONE=1` and the result, after finitely many steps; any busy state gets to
one or the other; and a host that only polls, and goes on polling, reads `BUSY=0`: `WAIT` ends. -/
def Obligations.FairExecutionsFinishOperations : Prop :=
  ∀ (σ : Nat → State) (turn : Nat → Turn), IsExecution σ turn → WeaklyFair σ turn →
    (∀ (n : Nat) (a : Access), turn n = .access a → (σ n).busy = false → decodeAccess a = .enc →
      ∃ m : Nat, n < m ∧ (∀ k : Nat, n < k → k < m → (σ k).busy = true ∧ (turn k).quiet = true) ∧
        ((σ m).busy = true ∧ (turn m).quiet = false ∨
          (σ m).busy = false ∧ (σ m).done = true ∧ (σ m).dir = false ∧
            (σ m).st = encrypt params (σ n).st (σ n).key ∧ (σ m).key = (σ n).key)) ∧
    (∀ (n : Nat) (a : Access), turn n = .access a → (σ n).busy = false → decodeAccess a = .dec →
      ∃ m : Nat, n < m ∧ (∀ k : Nat, n < k → k < m → (σ k).busy = true ∧ (turn k).quiet = true) ∧
        ((σ m).busy = true ∧ (turn m).quiet = false ∨
          (σ m).busy = false ∧ (σ m).done = true ∧ (σ m).dir = true ∧
            (σ m).st = decrypt params (σ n).st (σ n).key ∧ (σ m).key = (σ n).key)) ∧
    (∀ n : Nat, (σ n).busy = true →
      ∃ m : Nat, n ≤ m ∧ (∀ k : Nat, n ≤ k → k < m → (σ k).busy = true ∧ (turn k).quiet = true) ∧
        ((σ m).busy = true ∧ (turn m).quiet = false ∨ (σ m).busy = false ∧ (σ m).done = true)) ∧
    (∀ n : Nat, (∀ m : Nat, n ≤ m → turn m = .access statAccess ∨ turn m = .ctl ∨ turn m = .reset) →
      (∀ k : Nat, n ≤ k → ∃ m : Nat, k ≤ m ∧ turn m = .access statAccess) →
      ∃ m : Nat, n ≤ m ∧ turn m = .access statAccess ∧ (decodeStat (σ (m + 1)).rd).busy = false)

/-- R8, R63, R256, executions and runs: nothing is assumed of the host, so every sequence of turns is an execution from
every state; every finite part of an execution is a run of `step` whose agenda lists its turns; and every endless run of
`step` is, but for the agenda, a weakly fair execution. -/
def Obligations.ExecutionsAreTheRuns : Prop :=
  (∀ (s : State) (turn : Nat → Turn), (∀ n : Nat, turn n ≠ .wait) →
    ∃ σ : Nat → State, σ 0 = s ∧ IsExecution σ turn) ∧
  (∀ (σ : Nat → State) (turn : Nat → Turn) (n : Nat) (rest : List Turn), IsExecution σ turn →
    core.run n { σ 0 with agenda := (List.range n).map turn ++ rest } = .next { σ n with agenda := rest }) ∧
  (∀ s : State, ∃ (σ : Nat → State) (turn : Nat → Turn), IsExecution σ turn ∧ WeaklyFair σ turn ∧
    ∀ n : Nat, ∃ rest : List Turn, core.run n s = .next { σ n with agenda := rest })

/-- R63 (b): once `RDSTAT` shows `BUSY=0`, `RDBLK` returns the block until something writes it. -/
def Obligations.TheResultStaysReadable : Prop :=
  ∀ (s : State) (ts rest : List Turn) (j : Fin 4), (decodeStat (statusWord s)).busy = false →
    (∀ u ∈ ts, u.keepsBlock = true) →
    ∃ t : State, core.run (ts.length + 1) { s with agenda := ts ++ .access (readOf (8 + j.val)) :: rest } = .next t ∧
      t.rd = s.st.get j ∧ t.st = s.st ∧ t.agenda = rest

/-- R196, R100: the transaction. From an idle state `ENCRYPTBLOCK` reads the words of `ENCRYPT(b, k)` and
`DECRYPTBLOCK` those of `DECRYPT(b, k)`, and no error is raised. The number of polls, 17, is the model's schedule for
`WAIT` (log 3). -/
def Obligations.TheTransactionReturnsTheResult : Prop :=
  ∀ (s : State) (b : Block) (k : Key) (rest : List Turn) (j : Fin 4), s.busy = false →
    (∃ t : State, core.run (8 + 4 + 1 + 33 + (j.val + 1)) { s with agenda := encryptBlock b k ++ rest } = .next t ∧
      t.rd = (encrypt params b k).get j ∧ t.st = encrypt params b k ∧ t.key = k ∧ t.done = true ∧
      (s.errorFree = true → t.errorFree = true)) ∧
    (∃ t : State, core.run (8 + 4 + 1 + 33 + (j.val + 1)) { s with agenda := decryptBlock b k ++ rest } = .next t ∧
      t.rd = (decrypt params b k).get j ∧ t.st = decrypt params b k ∧ t.key = k ∧ t.done = true ∧
      (s.errorFree = true → t.errorFree = true))

/-! ## One clock cycle -/

/-- R257: events of one cycle. Reset wins; an access comes before the round step that ends in its cycle, so a block
write there is dropped with `E_BUSY` and a status read still shows `BUSY=1`; `SRST` cancels the round step; no round
step completes in the cycle that accepts `ENC` or `DEC`. Where the cycle holds one event only, the access (R67) or the
round step, it is the step of that event (20_memory.md R63). -/
def Obligations.EventsOfOneCycleAreOrdered : Prop :=
  ∀ (p : PortIn) (e : Bool) (s : State),
    (p.rst = true → clockCycle p e s = .next { State.reset with agenda := s.agenda }) ∧
    (p.rst = false → p.sel = true → s.busy = true →
      ∀ u : State, exec (decodeAccess ⟨p.we, p.wa, p.wd⟩) s = .next u →
        clockCycle p true s = exec (ctlInstr u) u) ∧
    (p.rst = false → p.sel = true → s.busy = true → p.we = true → 8 ≤ p.wa.toNat → p.wa.toNat < 12 →
      ∃ t : State, clockCycle p true s = .next t ∧ t.err = true ∧ (s.err = false → t.ecause = 1) ∧
        t.st = (if s.dir then decRound params s.st s.key s.rnd else encRound params s.st s.key s.rnd)) ∧
    (p.rst = false → p.sel = false → s.busy = true → clockCycle p true s = exec (ctlInstr s) s) ∧
    (p.rst = false → p.sel = true → (e = false ∨ s.busy = false) →
      clockCycle p e s = exec (decodeAccess ⟨p.we, p.wa, p.wd⟩) s) ∧
    (p.rst = false → p.sel = true → s.busy = true → p.we = false → p.wa = 13 →
      (portOut p s).rd.getLsbD 0 = true) ∧
    (p.rst = false → p.sel = true → decodeAccess ⟨p.we, p.wa, p.wd⟩ = .srst →
      clockCycle p e s = .next { State.reset with agenda := s.agenda }) ∧
    (p.rst = false → p.sel = true → s.busy = false → decodeAccess ⟨p.we, p.wa, p.wd⟩ = .enc →
      clockCycle p e s = exec .enc s) ∧
    (p.rst = false → p.sel = true → s.busy = false → decodeAccess ⟨p.we, p.wa, p.wd⟩ = .dec →
      clockCycle p e s = exec .dec s)

/-- R67, R38: the outputs of a cycle. Two clauses are the model's choice: that the read data is the same under `rst=1`
(log 13), and that a cycle with an access and no round step leaves in the model's field `rd` what the port shows in it
(log 4). A cycle with neither event leaves the state as it is. -/
def Obligations.PortOutputsAreTheReads : Prop :=
  ∀ (p : PortIn) (e : Bool) (s : State),
    (p.rst = false → p.sel = true → p.we = false → memRead (4 * p.wa.toNat) 4 s = .next (portOut p s).rd) ∧
    (p.sel = false ∨ p.we = true → (portOut p s).rd = 0) ∧
    (∀ b : Bool, (portOut { p with rst := b } s).rd = (portOut p s).rd) ∧
    (portOut p s).doneO = s.done ∧ (portOut p s).errO = s.err ∧
    (p.rst = false → p.sel = true → (e = false ∨ s.busy = false) →
      ∃ t : State, clockCycle p e s = .next t ∧ t.rd = (portOut p s).rd) ∧
    (p.rst = false → p.sel = false → (e = false ∨ s.busy = false) → clockCycle p e s = .next s)
end

