-- ==== Sys2Proof/Laws/State.lean ====
section
/-! SUPPORT. What each named update of the state leaves in each field, true by definition, and the words of a block
and of a key after one of them is replaced. -/

namespace Sys2Proof

/-! ## Words of a block and of a key -/

/-- Word `i` after word `j` is replaced. -/
@[simp] theorem Block.get_set (b : Block) (j i : Fin 4) (v : Word) :
    (b.set j v).get i = if i = j then v else b.get i := by
  fin_cases j <;> fin_cases i <;> rfl

/-- Word `i` after word `j` is replaced. -/
@[simp] theorem Key.get_set (k : Key) (j i : Fin 8) (v : Word) :
    (k.set j v).get i = if i = j then v else k.get i := by
  fin_cases j <;> fin_cases i <;> rfl

/-- Word `i` of the block built from `f`. -/
@[simp] theorem Block.get_ofFn (f : Fin 4 → Word) (i : Fin 4) : (Block.ofFn f).get i = f i := by
  fin_cases i <;> rfl

/-- A block is the four words it holds. -/
theorem Block.ext_get {a b : Block} (h : ∀ i, a.get i = b.get i) : a = b := by
  cases a; cases b
  have h0 := h 0; have h1 := h 1; have h2 := h 2; have h3 := h 3
  simp only [Block.get] at h0 h1 h2 h3
  simp [h0, h1, h2, h3]

/-- Writing a word twice is writing it once. -/
@[simp] theorem Block.set_set (b : Block) (j : Fin 4) (v w : Word) : (b.set j v).set j w = b.set j w := by
  fin_cases j <;> rfl

/-- Writing a word twice is writing it once. -/
@[simp] theorem Key.set_set (k : Key) (j : Fin 8) (v w : Word) : (k.set j v).set j w = k.set j w := by
  fin_cases j <;> rfl

namespace Machine

/-! ## `KEY[j] <- v` -/

@[simp] theorem writeKey_st (j : Fin 8) (v : Word) (s : State) : (writeKey j v s).st = s.st := rfl
@[simp] theorem writeKey_key (j : Fin 8) (v : Word) (s : State) : (writeKey j v s).key = s.key.set j v := rfl
@[simp] theorem writeKey_rnd (j : Fin 8) (v : Word) (s : State) : (writeKey j v s).rnd = s.rnd := rfl
@[simp] theorem writeKey_dir (j : Fin 8) (v : Word) (s : State) : (writeKey j v s).dir = s.dir := rfl
@[simp] theorem writeKey_busy (j : Fin 8) (v : Word) (s : State) : (writeKey j v s).busy = s.busy := rfl
@[simp] theorem writeKey_done (j : Fin 8) (v : Word) (s : State) : (writeKey j v s).done = s.done := rfl
@[simp] theorem writeKey_err (j : Fin 8) (v : Word) (s : State) : (writeKey j v s).err = s.err := rfl
@[simp] theorem writeKey_ecause (j : Fin 8) (v : Word) (s : State) : (writeKey j v s).ecause = s.ecause := rfl
@[simp] theorem writeKey_rd (j : Fin 8) (v : Word) (s : State) : (writeKey j v s).rd = s.rd := rfl
@[simp] theorem writeKey_agenda (j : Fin 8) (v : Word) (s : State) : (writeKey j v s).agenda = s.agenda := rfl

/-! ## `ST[j] <- v; DONE <- 0` -/

@[simp] theorem writeBlk_st (j : Fin 4) (v : Word) (s : State) : (writeBlk j v s).st = s.st.set j v := rfl
@[simp] theorem writeBlk_key (j : Fin 4) (v : Word) (s : State) : (writeBlk j v s).key = s.key := rfl
@[simp] theorem writeBlk_rnd (j : Fin 4) (v : Word) (s : State) : (writeBlk j v s).rnd = s.rnd := rfl
@[simp] theorem writeBlk_dir (j : Fin 4) (v : Word) (s : State) : (writeBlk j v s).dir = s.dir := rfl
@[simp] theorem writeBlk_busy (j : Fin 4) (v : Word) (s : State) : (writeBlk j v s).busy = s.busy := rfl
@[simp] theorem writeBlk_done (j : Fin 4) (v : Word) (s : State) : (writeBlk j v s).done = false := rfl
@[simp] theorem writeBlk_err (j : Fin 4) (v : Word) (s : State) : (writeBlk j v s).err = s.err := rfl
@[simp] theorem writeBlk_ecause (j : Fin 4) (v : Word) (s : State) : (writeBlk j v s).ecause = s.ecause := rfl
@[simp] theorem writeBlk_rd (j : Fin 4) (v : Word) (s : State) : (writeBlk j v s).rd = s.rd := rfl
@[simp] theorem writeBlk_agenda (j : Fin 4) (v : Word) (s : State) : (writeBlk j v s).agenda = s.agenda := rfl

/-! ## `CLRERR` -/

@[simp] theorem clearError_st (s : State) : (clearError s).st = s.st := rfl
@[simp] theorem clearError_key (s : State) : (clearError s).key = s.key := rfl
@[simp] theorem clearError_rnd (s : State) : (clearError s).rnd = s.rnd := rfl
@[simp] theorem clearError_dir (s : State) : (clearError s).dir = s.dir := rfl
@[simp] theorem clearError_busy (s : State) : (clearError s).busy = s.busy := rfl
@[simp] theorem clearError_done (s : State) : (clearError s).done = s.done := rfl
@[simp] theorem clearError_err (s : State) : (clearError s).err = false := rfl
@[simp] theorem clearError_ecause (s : State) : (clearError s).ecause = 0 := rfl
@[simp] theorem clearError_rd (s : State) : (clearError s).rd = s.rd := rfl
@[simp] theorem clearError_agenda (s : State) : (clearError s).agenda = s.agenda := rfl

/-! ## `ENC` -/

@[simp] theorem startEnc_st (s : State) : (startEnc s).st = s.st := rfl
@[simp] theorem startEnc_key (s : State) : (startEnc s).key = s.key := rfl
@[simp] theorem startEnc_rnd (s : State) : (startEnc s).rnd = 0 := rfl
@[simp] theorem startEnc_dir (s : State) : (startEnc s).dir = false := rfl
@[simp] theorem startEnc_busy (s : State) : (startEnc s).busy = true := rfl
@[simp] theorem startEnc_done (s : State) : (startEnc s).done = false := rfl
@[simp] theorem startEnc_err (s : State) : (startEnc s).err = s.err := rfl
@[simp] theorem startEnc_ecause (s : State) : (startEnc s).ecause = s.ecause := rfl
@[simp] theorem startEnc_rd (s : State) : (startEnc s).rd = s.rd := rfl
@[simp] theorem startEnc_agenda (s : State) : (startEnc s).agenda = s.agenda := rfl

/-! ## `DEC` -/

@[simp] theorem startDec_st (s : State) : (startDec s).st = s.st := rfl
@[simp] theorem startDec_key (s : State) : (startDec s).key = s.key := rfl
@[simp] theorem startDec_rnd (s : State) : (startDec s).rnd = 15 := rfl
@[simp] theorem startDec_dir (s : State) : (startDec s).dir = true := rfl
@[simp] theorem startDec_busy (s : State) : (startDec s).busy = true := rfl
@[simp] theorem startDec_done (s : State) : (startDec s).done = false := rfl
@[simp] theorem startDec_err (s : State) : (startDec s).err = s.err := rfl
@[simp] theorem startDec_ecause (s : State) : (startDec s).ecause = s.ecause := rfl
@[simp] theorem startDec_rd (s : State) : (startDec s).rd = s.rd := rfl
@[simp] theorem startDec_agenda (s : State) : (startDec s).agenda = s.agenda := rfl

/-! ## the last round step -/

@[simp] theorem finishOp_st (s : State) : (finishOp s).st = s.st := rfl
@[simp] theorem finishOp_key (s : State) : (finishOp s).key = s.key := rfl
@[simp] theorem finishOp_rnd (s : State) : (finishOp s).rnd = 0 := rfl
@[simp] theorem finishOp_dir (s : State) : (finishOp s).dir = s.dir := rfl
@[simp] theorem finishOp_busy (s : State) : (finishOp s).busy = false := rfl
@[simp] theorem finishOp_done (s : State) : (finishOp s).done = true := rfl
@[simp] theorem finishOp_err (s : State) : (finishOp s).err = s.err := rfl
@[simp] theorem finishOp_ecause (s : State) : (finishOp s).ecause = s.ecause := rfl
@[simp] theorem finishOp_rd (s : State) : (finishOp s).rd = s.rd := rfl
@[simp] theorem finishOp_agenda (s : State) : (finishOp s).agenda = s.agenda := rfl

/-! ## `SRST` and reset -/

@[simp] theorem resetRegs_st (s : State) : (resetRegs s).st = ⟨0, 0, 0, 0⟩ := rfl
@[simp] theorem resetRegs_key (s : State) : (resetRegs s).key = ⟨0, 0, 0, 0, 0, 0, 0, 0⟩ := rfl
@[simp] theorem resetRegs_rnd (s : State) : (resetRegs s).rnd = 0 := rfl
@[simp] theorem resetRegs_dir (s : State) : (resetRegs s).dir = false := rfl
@[simp] theorem resetRegs_busy (s : State) : (resetRegs s).busy = false := rfl
@[simp] theorem resetRegs_done (s : State) : (resetRegs s).done = false := rfl
@[simp] theorem resetRegs_err (s : State) : (resetRegs s).err = false := rfl
@[simp] theorem resetRegs_ecause (s : State) : (resetRegs s).ecause = 0 := rfl
@[simp] theorem resetRegs_rd (s : State) : (resetRegs s).rd = 0 := rfl
@[simp] theorem resetRegs_agenda (s : State) : (resetRegs s).agenda = s.agenda := rfl

/-! ## The error report: only `ERR` and `ECAUSE` -/

@[simp] theorem report_st (e : Cause) (s : State) : (report e s).st = s.st := by
  unfold report; split <;> rfl
@[simp] theorem report_key (e : Cause) (s : State) : (report e s).key = s.key := by
  unfold report; split <;> rfl
@[simp] theorem report_rnd (e : Cause) (s : State) : (report e s).rnd = s.rnd := by
  unfold report; split <;> rfl
@[simp] theorem report_dir (e : Cause) (s : State) : (report e s).dir = s.dir := by
  unfold report; split <;> rfl
@[simp] theorem report_busy (e : Cause) (s : State) : (report e s).busy = s.busy := by
  unfold report; split <;> rfl
@[simp] theorem report_done (e : Cause) (s : State) : (report e s).done = s.done := by
  unfold report; split <;> rfl
@[simp] theorem report_rd (e : Cause) (s : State) : (report e s).rd = s.rd := by
  unfold report; split <;> rfl
@[simp] theorem report_agenda (e : Cause) (s : State) : (report e s).agenda = s.agenda := by
  unfold report; split <;> rfl
@[simp] theorem report_err (e : Cause) (s : State) : (report e s).err = true := by
  unfold report; split <;> simp_all
theorem report_ecause (e : Cause) (s : State) :
    (report e s).ecause = if s.err then s.ecause else e.code := by
  unfold report; split <;> rfl

/-- The report as one update (60_exceptions.md R212). -/
theorem report_eq (e : Cause) (s : State) :
    report e s = { s with err := true, ecause := if s.err then s.ecause else e.code } := by
  obtain ⟨st, key, rnd, dir, busy, done, err, ecause, rd, agenda⟩ := s
  cases err <;> rfl

/-! ## The round steps: never `KEY`, `DIR`, `ERR`, `ECAUSE` (44_round_controller.md R173) -/

@[simp] theorem encStep_key (s : State) : (encStep s).key = s.key := by
  unfold encStep; dsimp only; split <;> rfl
@[simp] theorem encStep_dir (s : State) : (encStep s).dir = s.dir := by
  unfold encStep; dsimp only; split <;> rfl
@[simp] theorem encStep_err (s : State) : (encStep s).err = s.err := by
  unfold encStep; dsimp only; split <;> rfl
@[simp] theorem encStep_ecause (s : State) : (encStep s).ecause = s.ecause := by
  unfold encStep; dsimp only; split <;> rfl
@[simp] theorem encStep_rd (s : State) : (encStep s).rd = s.rd := by
  unfold encStep; dsimp only; split <;> rfl
@[simp] theorem encStep_agenda (s : State) : (encStep s).agenda = s.agenda := by
  unfold encStep; dsimp only; split <;> rfl
@[simp] theorem decStep_key (s : State) : (decStep s).key = s.key := by
  unfold decStep; dsimp only; split <;> rfl
@[simp] theorem decStep_dir (s : State) : (decStep s).dir = s.dir := by
  unfold decStep; dsimp only; split <;> rfl
@[simp] theorem decStep_err (s : State) : (decStep s).err = s.err := by
  unfold decStep; dsimp only; split <;> rfl
@[simp] theorem decStep_ecause (s : State) : (decStep s).ecause = s.ecause := by
  unfold decStep; dsimp only; split <;> rfl
@[simp] theorem decStep_rd (s : State) : (decStep s).rd = s.rd := by
  unfold decStep; dsimp only; split <;> rfl
@[simp] theorem decStep_agenda (s : State) : (decStep s).agenda = s.agenda := by
  unfold decStep; dsimp only; split <;> rfl
@[simp] theorem encStep_st (s : State) : (encStep s).st = encRound params s.st s.key s.rnd := by
  unfold encStep; dsimp only; split <;> rfl
@[simp] theorem decStep_st (s : State) : (decStep s).st = decRound params s.st s.key s.rnd := by
  unfold decStep; dsimp only; split <;> rfl

end Machine

end Sys2Proof
end

