-- ==== Sys2Proof/Laws/Arith.lean ====
section
/-! SUPPORT. The word primitives as the library's bit-vector operations: each lemma says everything its primitive
does, and later proofs cite it. -/

namespace Sys2Proof.Machine

theorem add32_eq (a b : Word) : add32 a b = a + b := by
  apply BitVec.eq_of_toNat_eq
  simp [add32, BitVec.toNat_add]

theorem sub32_eq (a b : Word) : sub32 a b = a - b := by
  have ha := a.isLt
  have hb := b.isLt
  apply BitVec.eq_of_toNat_eq
  unfold sub32
  split <;> rw [BitVec.toNat_ofNat, BitVec.toNat_sub] <;> omega

theorem xor32_eq (a b : Word) : xor32 a b = a ^^^ b := rfl

theorem rotl32_eq (x : Word) (n : Nat) : rotl32 x n = x.rotateLeft n := by
  unfold rotl32 BitVec.rotateLeft BitVec.rotateLeftAux
  split
  · rename_i h
    have h32 : x >>> 32 = 0#32 := BitVec.ushiftRight_eq_zero (Nat.le_refl 32)
    simp [h, h32]
  · rfl

theorem rotr32_eq (x : Word) (n : Nat) : rotr32 x n = x.rotateRight n := by
  unfold rotr32 BitVec.rotateRight BitVec.rotateRightAux
  split
  · rename_i h
    have h32 : x <<< 32 = 0#32 := BitVec.shiftLeft_eq_zero (Nat.le_refl 32)
    simp [h, h32]
  · rfl

/-- A word is its 32 bits. -/
theorem word_ext {x y : Word} (h : ∀ p, p < 32 → x.getLsbD p = y.getLsbD p) : x = y :=
  BitVec.eq_of_getLsbD_eq fun p hp => h p hp

/-- Bit `p` of a left rotation, as the bit it comes from. -/
theorem rotl32_getLsbD (x : Word) (n : Nat) {p : Nat} (h : p < 32) :
    (rotl32 x n).getLsbD p = x.getLsbD ((p + (32 - n % 32)) % 32) := by
  rw [rotl32_eq, BitVec.getLsbD_rotateLeft]
  have hm := Nat.mod_lt n (show 0 < 32 by decide)
  generalize n % 32 = m at *
  simp only [h, decide_true, Bool.true_and, Bool.cond_decide]
  split <;> (congr 1; omega)

/-- Bit `p` of a right rotation, as the bit it comes from. -/
theorem rotr32_getLsbD (x : Word) (n : Nat) {p : Nat} (h : p < 32) :
    (rotr32 x n).getLsbD p = x.getLsbD ((p + n) % 32) := by
  rw [rotr32_eq, BitVec.getLsbD_rotateRight, show (p + n) % 32 = (p + n % 32) % 32 by omega]
  have hm := Nat.mod_lt n (show 0 < 32 by decide)
  generalize n % 32 = m at *
  simp only [h, decide_true, Bool.true_and, Bool.cond_decide]
  split <;> (congr 1; omega)

end Sys2Proof.Machine
end

