-- ==== Sys2Proof/Laws/Exec.lean ====
section
/-! SUPPORT. One lemma per shared operation and one per meaning: everything it can answer. Provers cite these and
do not unfold the meanings. -/

namespace Sys2Proof.Machine

/-! ## Shared operations -/

theorem accept_next (s : State) : accept s = .next { s with rd := 0 } := rfl

theorem reply_next (v : Word) (s : State) : reply v s = .next { s with rd := v } := rfl

/-- A dropped write: the record of the first error, and nothing else (60_exceptions.md R212). -/
theorem raise_next (e : Cause) (s : State) :
    raise e s = .next { s with err := true, ecause := if s.err then s.ecause else e.code, rd := 0 } := by
  rw [raise, report_eq]; rfl

/-- The same in the terms of claims. -/
theorem raise_eq_dropped (e : Cause) (s : State) : raise e s = .next (dropped e.code s) := raise_next e s

theorem whenIdle_busy {s : State} (k : State) (h : s.busy = true) : whenIdle s k = raise .eBusy s := by
  simp [whenIdle, h]

theorem whenIdle_idle {s : State} (k : State) (h : s.busy = false) : whenIdle s k = accept k := by
  simp [whenIdle, h]

/-- `whenIdle` always goes on. -/
theorem whenIdle_cases (s k : State) :
    (s.busy = true ∧ whenIdle s k = raise .eBusy s) ∨ (s.busy = false ∧ whenIdle s k = accept k) := by
  cases h : s.busy <;> simp [whenIdle, h]

/-! ## The round steps -/

/-- An encryption round that is not the last (44_round_controller.md R165). -/
theorem encStep_mid {s : State} (h : s.rnd ≠ 15) :
    encStep s = { s with st := encRound params s.st s.key s.rnd, rnd := s.rnd + 1 } := if_neg h

/-- The sixteenth encryption round. -/
theorem encStep_last {s : State} (h : s.rnd = 15) :
    encStep s = finishOp { s with st := encRound params s.st s.key s.rnd } := if_pos h

/-- A decryption round that is not the last (44_round_controller.md R166). -/
theorem decStep_mid {s : State} (h : s.rnd ≠ 0) :
    decStep s = { s with st := decRound params s.st s.key s.rnd, rnd := s.rnd - 1 } := if_neg h

/-- The sixteenth decryption round. -/
theorem decStep_last {s : State} (h : s.rnd = 0) :
    decStep s = finishOp { s with st := decRound params s.st s.key s.rnd } := if_pos h

/-! ## Meanings -/

theorem exec_ldkey (j : Fin 8) (v : Word) (s : State) :
    exec (.ldkey j v) s = if s.busy then raise .eBusy s else accept (writeKey j v s) := rfl

theorem exec_rdkey (j : Fin 8) (s : State) : exec (.rdkey j) s = .next { s with rd := 0 } := rfl

theorem exec_ldblk (j : Fin 4) (v : Word) (s : State) :
    exec (.ldblk j v) s = if s.busy then raise .eBusy s else accept (writeBlk j v s) := rfl

theorem exec_rdblk (j : Fin 4) (s : State) :
    exec (.rdblk j) s = .next { s with rd := if s.busy then 0 else s.st.get j } := rfl

theorem exec_nop (s : State) : exec .nop s = .next { s with rd := 0 } := rfl

theorem exec_enc (s : State) : exec .enc s = if s.busy then raise .eBusy s else accept (startEnc s) := rfl

theorem exec_dec (s : State) : exec .dec s = if s.busy then raise .eBusy s else accept (startDec s) := rfl

theorem exec_clrerr (s : State) : exec .clrerr s = accept (clearError s) := rfl

theorem exec_srst (s : State) : exec .srst s = .next { State.reset with agenda := s.agenda } := rfl

theorem exec_cmd {v : Word} (h : 4 < v.toNat) (s : State) : exec (.cmd v) s = raise .eIllCmd s := by
  show execCmd v s = _
  simp [execCmd, h]

/-- A term that is no reserved command is refused. -/
theorem exec_cmd_refused {v : Word} (h : v.toNat ≤ 4) (s : State) : exec (.cmd v) s = .refused .notReserved := by
  show execCmd v s = _
  simp [execCmd, Nat.not_lt.mpr h]

theorem exec_rdctrl (s : State) : exec .rdctrl s = .next { s with rd := 0 } := rfl

theorem exec_wrstat (v : Word) (s : State) : exec (.wrstat v) s = raise .eBadAddr s := rfl

theorem exec_rdstat (s : State) : exec .rdstat s = .next { s with rd := statusWord s } := rfl

theorem exec_wrrsv (a0 : Fin 2) (v : Word) (s : State) : exec (.wrrsv a0 v) s = raise .eBadAddr s := rfl

theorem exec_rdrsv (a0 : Fin 2) (s : State) : exec (.rdrsv a0) s = .next { s with rd := 0 } := rfl

theorem exec_encround {s : State} (hb : s.busy = true) (hd : s.dir = false) :
    exec .encround s = accept (encStep s) := by
  show execEncround s = _
  simp [execEncround, hb, hd]

theorem exec_decround {s : State} (hb : s.busy = true) (hd : s.dir = true) :
    exec .decround s = accept (decStep s) := by
  show execDecround s = _
  simp [execDecround, hb, hd]

theorem exec_idle {s : State} (hb : s.busy = false) : exec .idle s = .next { s with rd := 0 } := by
  show execIdle s = _
  simp [execIdle, hb, accept]

/-! ## The controller's turn -/

theorem ctlInstr_enc {s : State} (hb : s.busy = true) (hd : s.dir = false) : ctlInstr s = .encround := by
  simp [ctlInstr, selector, hb, hd, decodeCtl]

theorem ctlInstr_dec {s : State} (hb : s.busy = true) (hd : s.dir = true) : ctlInstr s = .decround := by
  simp [ctlInstr, selector, hb, hd, decodeCtl]

theorem ctlInstr_idle {s : State} (hb : s.busy = false) : ctlInstr s = .idle := by
  cases hd : s.dir <;> simp [ctlInstr, selector, hb, hd, decodeCtl]

/-- The controller's turn: everything it can answer. -/
theorem runTurn_ctl (s : State) :
    runTurn .ctl s =
      accept (if s.busy then (if s.dir then decStep s else encStep s) else s) := by
  show exec (ctlInstr s) s = _
  cases hb : s.busy
  · rw [ctlInstr_idle hb, exec_idle hb]; rfl
  · cases hd : s.dir
    · rw [ctlInstr_enc hb hd, exec_encround hb hd]; rfl
    · rw [ctlInstr_dec hb hd, exec_decround hb hd]; rfl

end Sys2Proof.Machine
end

