-- ==== Sys2Proof/Laws/Decode.lean ====
section
/-! SUPPORT. Small lemmas of the decoder: the fields of a transaction word, the commands, the indices, and that what is
decoded is well formed. -/

namespace Sys2Proof

/-- The fields read back what `toBus` laid out (30_encoding.md R81). -/
@[simp] theorem Access.ofBus_toBus (a : Access) : Access.ofBus a.toBus = a := by
  obtain ⟨we, wa, wd⟩ := a
  have hwd : busWd (Access.toBus ⟨we, wa, wd⟩) = wd := by
    simp only [busWd, Access.toBus]; exact BitVec.extractLsb'_append_eq_right
  have hwa : busWa (Access.toBus ⟨we, wa, wd⟩) = wa := by
    apply BitVec.eq_of_getLsbD_eq
    intro i hi
    simp only [busWa, Access.toBus, BitVec.getLsbD_extractLsb', BitVec.getLsbD_append]
    simp [hi]
  have hwe : busWe (Access.toBus ⟨we, wa, wd⟩) = we := by
    simp only [busWe, Access.toBus, BitVec.getLsbD_append]
    simp
  simp [Access.ofBus, hwd, hwa, hwe]

theorem decodeBus_toBus (a : Access) : decodeBus a.toBus = decodeAccess a := by simp [decodeBus]

/-- The transaction word as the sum 30_encoding.md R93 writes. -/
theorem Access.toBus_eq_ofNat (w : Bool) (wa : Nat) (h : wa < 16) (v : Word) :
    Access.toBus ⟨w, BitVec.ofNat 4 wa, v⟩ =
      BitVec.ofNat 37 (w.toNat * 0x1000000000 + wa * 0x100000000 + v.toNat) := by
  apply BitVec.eq_of_toNat_eq
  have hv := v.isLt
  have hw : w.toNat ≤ 1 := by cases w <;> decide
  simp only [Access.toBus, BitVec.toNat_append, BitVec.toNat_ofNat, BitVec.toNat_ofBool]
  rw [Nat.mod_eq_of_lt (show wa < 2 ^ 4 from h), ← Nat.shiftLeft_add_eq_or_of_lt (show wa < 2 ^ 4 from h),
    ← Nat.shiftLeft_add_eq_or_of_lt hv]
  simp only [Nat.shiftLeft_eq]
  omega

/-! ## An access, by its word address -/

/-- The five kinds of word address of the table of 30_encoding.md R88. -/
theorem wa_cases (wa : BitVec 4) :
    (∃ j : Fin 8, wa = BitVec.ofNat 4 j.val) ∨ (∃ j : Fin 4, wa = BitVec.ofNat 4 (8 + j.val)) ∨
      wa = 12#4 ∨ wa = 13#4 ∨ (∃ j : Fin 2, wa = BitVec.ofNat 4 (14 + j.val)) := by
  revert wa; decide

theorem decodeAccess_key (j : Fin 8) (w : Bool) (v : Word) :
    decodeAccess ⟨w, BitVec.ofNat 4 j.val, v⟩ = if w then .ldkey j v else .rdkey j := by
  cases w <;> fin_cases j <;> rfl

theorem decodeAccess_blk (j : Fin 4) (w : Bool) (v : Word) :
    decodeAccess ⟨w, BitVec.ofNat 4 (8 + j.val), v⟩ = if w then .ldblk j v else .rdblk j := by
  have hj := j.isLt
  have h1 : (BitVec.ofNat 4 (8 + j.val)).toNat = 8 + j.val := by simp; omega
  have h2 : blockIndex (BitVec.ofNat 4 (8 + j.val)) = j := by
    apply Fin.ext; simp only [blockIndex, h1]; omega
  simp only [decodeAccess, h1, h2]
  simp [show ¬ 8 + j.val < 8 by omega, show 8 + j.val < 12 by omega]

theorem decodeAccess_ctrl (w : Bool) (v : Word) :
    decodeAccess ⟨w, 12#4, v⟩ = if w then decodeCommand v else .rdctrl := rfl

theorem decodeAccess_stat (w : Bool) (v : Word) :
    decodeAccess ⟨w, 13#4, v⟩ = if w then .wrstat v else .rdstat := rfl

theorem decodeAccess_rsv (a0 : Fin 2) (w : Bool) (v : Word) :
    decodeAccess ⟨w, BitVec.ofNat 4 (14 + a0.val), v⟩ = if w then .wrrsv a0 v else .rdrsv a0 := by
  have ha := a0.isLt
  have h1 : (BitVec.ofNat 4 (14 + a0.val)).toNat = 14 + a0.val := by simp; omega
  have h2 : reservedIndex (BitVec.ofNat 4 (14 + a0.val)) = a0 := by
    apply Fin.ext; simp only [reservedIndex, h1]; omega
  simp only [decodeAccess, h1, h2]
  simp [show ¬ 14 + a0.val < 8 by omega, show ¬ 14 + a0.val < 12 by omega, show ¬ 14 + a0.val = 12 by omega,
    show ¬ 14 + a0.val = 13 by omega]

/-! ## Commands -/

/-- The command of a word, by its value (30_encoding.md R82). -/
theorem decodeCommand_eq (v : Word) :
    decodeCommand v =
      if v.toNat = 0 then .nop else if v.toNat = 1 then .enc else if v.toNat = 2 then .dec
      else if v.toNat = 3 then .clrerr else if v.toNat = 4 then .srst else .cmd v := by
  have hz : (cmdZ v).toNat = v.toNat / 8 % 2 ^ 29 := by
    simp [cmdZ, BitVec.extractLsb'_toNat, Nat.shiftRight_eq_div_pow]
  have ho : (cmdOp v).toNat = v.toNat % 8 := by
    simp [cmdOp, BitVec.extractLsb'_toNat]
  have hlt := v.isLt
  unfold decodeCommand
  by_cases h : cmdZ v = 0#29
  · have hz0 : (cmdZ v).toNat = 0 := by rw [h]; rfl
    have hv : v.toNat < 8 := by omega
    rw [if_pos h, ho, Nat.mod_eq_of_lt hv]
    generalize v.toNat = n at hv ⊢
    interval_cases n <;> rfl
  · have hv : 8 ≤ v.toNat := by
      by_contra hc
      apply h
      apply BitVec.eq_of_toNat_eq
      rw [hz, Nat.div_eq_of_lt (by omega)]; rfl
    rw [if_neg h]
    simp [show v.toNat ≠ 0 by omega, show v.toNat ≠ 1 by omega, show v.toNat ≠ 2 by omega,
      show v.toNat ≠ 3 by omega, show v.toNat ≠ 4 by omega]

/-- No command decodes to a row of the controller, and a reserved command is none of 0..4. -/
theorem decodeCommand_wellFormed (v : Word) : (decodeCommand v).wellFormed = true := by
  rw [decodeCommand_eq]
  split
  · rfl
  split
  · rfl
  split
  · rfl
  split
  · rfl
  split
  · rfl
  simp only [Instr.wellFormed, decide_eq_true_eq]
  omega

/-- What is decoded from an access is an instruction of a host access: no row of the controller. -/
theorem decodeAccess_ne_ctl (a : Access) :
    decodeAccess a ≠ .encround ∧ decodeAccess a ≠ .decround ∧ decodeAccess a ≠ .idle := by
  obtain ⟨we, wa, wd⟩ := a
  rcases wa_cases wa with ⟨j, rfl⟩ | ⟨j, rfl⟩ | rfl | rfl | ⟨j, rfl⟩
  · rw [decodeAccess_key]; cases we <;> simp
  · rw [decodeAccess_blk]; cases we <;> simp
  · rw [decodeAccess_ctrl]
    cases we
    · simp
    · simp only [if_true]; rw [decodeCommand_eq]; split_ifs <;> simp
  · rw [decodeAccess_stat]; cases we <;> simp
  · rw [decodeAccess_rsv]; cases we <;> simp

/-- What is decoded from an access is an instruction. -/
theorem decodeAccess_wellFormed (a : Access) : (decodeAccess a).wellFormed = true := by
  have := decodeCommand_wellFormed a.wd
  unfold decodeAccess
  repeat' split
  all_goals first | assumption | rfl

end Sys2Proof
end

