-- ==== Sys2Proof/Laws/Frame.lean ====
section
/-! SUPPORT. What every meaning leaves alone on the model's own side: no instruction touches the agenda, and none depends
on it. -/

namespace Sys2Proof.Machine

theorem raise_agenda {e : Cause} {s t : State} (h : raise e s = .next t) : t.agenda = s.agenda := by
  rw [raise_next] at h; cases h; rfl

theorem whenIdle_agenda {s k t : State} (hk : k.agenda = s.agenda) (h : whenIdle s k = .next t) :
    t.agenda = s.agenda := by
  obtain ⟨_, e⟩ | ⟨_, e⟩ := whenIdle_cases s k <;> rw [e] at h
  · exact raise_agenda h
  · cases h; exact hk

/-- An instruction leaves the turns still to come as they are. -/
theorem exec_agenda {i : Instr} {s t : State} (h : exec i s = .next t) : t.agenda = s.agenda := by
  cases i with
  | ldkey j v => exact whenIdle_agenda (by simp) h
  | ldblk j v => exact whenIdle_agenda (by simp) h
  | enc => exact whenIdle_agenda (by simp) h
  | dec => exact whenIdle_agenda (by simp) h
  | cmd v =>
    by_cases hv : 4 < v.toNat
    · rw [exec_cmd hv] at h; exact raise_agenda h
    · rw [exec_cmd_refused (by omega)] at h; cases h
  | wrstat v => exact raise_agenda h
  | wrrsv a0 v => exact raise_agenda h
  | encround =>
    simp only [exec, execEncround] at h
    split at h
    · cases h; simp
    · cases h
  | decround =>
    simp only [exec, execDecround] at h
    split at h
    · cases h; simp
    · cases h
  | idle =>
    simp only [exec, execIdle] at h
    split at h
    · cases h
    · cases h; rfl
  | _ => cases h; rfl

/-! ## No instruction depends on the agenda -/

theorem encStep_withAgenda (s : State) (ag : List Turn) :
    encStep { s with agenda := ag } = { encStep s with agenda := ag } := by
  simp only [encStep]; split <;> rfl

theorem decStep_withAgenda (s : State) (ag : List Turn) :
    decStep { s with agenda := ag } = { decStep s with agenda := ag } := by
  simp only [decStep]; split <;> rfl

theorem raise_withAgenda (ag : List Turn) {e : Cause} {s t : State} (h : raise e s = .next t) :
    raise e { s with agenda := ag } = .next { t with agenda := ag } := by
  rw [raise_next] at h ⊢; cases h; rfl

theorem whenIdle_withAgenda (ag : List Turn) {s k t : State} (h : whenIdle s k = .next t) :
    whenIdle { s with agenda := ag } { k with agenda := ag } = .next { t with agenda := ag } := by
  obtain ⟨hb, e⟩ | ⟨hb, e⟩ := whenIdle_cases s k <;> rw [e] at h
  · exact (whenIdle_busy _ (by exact hb)).trans (raise_withAgenda ag h)
  · rw [whenIdle_idle _ (by exact hb)]; cases h; rfl

/-- An instruction does the same with other turns still to come. -/
theorem exec_withAgenda (ag : List Turn) {i : Instr} {s t : State} (h : exec i s = .next t) :
    exec i { s with agenda := ag } = .next { t with agenda := ag } := by
  cases i with
  | ldkey j v => exact whenIdle_withAgenda ag h
  | ldblk j v => exact whenIdle_withAgenda ag h
  | enc => exact whenIdle_withAgenda ag h
  | dec => exact whenIdle_withAgenda ag h
  | cmd v =>
    by_cases hv : 4 < v.toNat
    · rw [exec_cmd hv] at h ⊢; exact raise_withAgenda ag h
    · rw [exec_cmd_refused (by omega)] at h; cases h
  | wrstat v => exact raise_withAgenda ag h
  | wrrsv a0 v => exact raise_withAgenda ag h
  | encround =>
    simp only [exec, execEncround] at h ⊢
    split at h
    · rename_i hc; cases h; rw [if_pos hc, encStep_withAgenda]; rfl
    · cases h
  | decround =>
    simp only [exec, execDecround] at h ⊢
    split at h
    · rename_i hc; cases h; rw [if_pos hc, decStep_withAgenda]; rfl
    · cases h
  | idle =>
    simp only [exec, execIdle] at h ⊢
    split at h
    · cases h
    · rename_i hc; cases h; rw [if_neg hc]; rfl
  | _ => cases h; rfl

/-! ## The same of a turn -/

theorem runTurn_agenda {u : Turn} {s t : State} (h : runTurn u s = .next t) : t.agenda = s.agenda := by
  cases u with
  | access a => exact exec_agenda h
  | ctl => exact exec_agenda h
  | reset => cases h; rfl
  | wait => exact exec_agenda (i := decodeAccess statAccess) h

theorem runTurn_withAgenda (ag : List Turn) {u : Turn} {s t : State} (h : runTurn u s = .next t) :
    runTurn u { s with agenda := ag } = .next { t with agenda := ag } := by
  cases u with
  | access a => exact exec_withAgenda ag h
  | ctl => exact exec_withAgenda (i := ctlInstr s) ag h
  | reset => cases h; rfl
  | wait => exact exec_withAgenda (i := decodeAccess statAccess) ag h

end Sys2Proof.Machine
end

