-- ==== Sys2Proof/Laws/PerInstr.lean ====
section
/-! SUPPORT. Laws made per instruction (LAWS.json). `TableRow`: the code word of an instruction lies in the row of the
opcode table that bears its mnemonic (30_encoding.md R88, R89). -/

namespace Sys2Proof.Laws.TableRow

/-- The code word of `i` is selected by a row of its format with `i`'s mnemonic. -/
def Statement (i : Instr) : Prop :=
  match encode i with
  | .bus t => ∃ r ∈ busTable, r.mnemonic = i.mnemonic ∧ r.selects t = true
  | .ctl s => ∃ r ∈ ctlTable, r.mnemonic = i.mnemonic ∧ r.selects s = true

/-- A row whose mask looks at `we` and `wa` only: the high five bits decide. -/
theorem selects_high (m : String) (we : Bool) (wa : BitVec 4) (wd : Word) (mask bits : BitVec 5)
    (h : (BitVec.ofBool we ++ wa) &&& mask = bits) :
    BusRow.selects ⟨m, mask ++ 0#32, bits ++ 0#32⟩ (Access.toBus ⟨we, wa, wd⟩) = true := by
  show (((BitVec.ofBool we ++ wa) ++ wd : BitVec 37) &&& (mask ++ 0#32) == bits ++ 0#32) = true
  rw [BitVec.and_append, h, BitVec.and_zero]
  exact beq_self_eq_true _

theorem ldkey (j : Fin 8) (v : Word) : Statement (.ldkey j v) :=
  ⟨⟨"LDKEY", 0b11000#5 ++ 0#32, 0b10000#5 ++ 0#32⟩, by decide, rfl,
    selects_high _ true _ v _ _ (by revert j; decide)⟩
theorem rdkey (j : Fin 8) : Statement (.rdkey j) :=
  ⟨⟨"RDKEY", 0b11000#5 ++ 0#32, 0b00000#5 ++ 0#32⟩, by decide, rfl,
    selects_high _ false _ 0 _ _ (by revert j; decide)⟩
theorem ldblk (j : Fin 4) (v : Word) : Statement (.ldblk j v) :=
  ⟨⟨"LDBLK", 0b11100#5 ++ 0#32, 0b11000#5 ++ 0#32⟩, by decide, rfl,
    selects_high _ true _ v _ _ (by revert j; decide)⟩
theorem rdblk (j : Fin 4) : Statement (.rdblk j) :=
  ⟨⟨"RDBLK", 0b11100#5 ++ 0#32, 0b01000#5 ++ 0#32⟩, by decide, rfl,
    selects_high _ false _ 0 _ _ (by revert j; decide)⟩
theorem nop : Statement .nop := ⟨⟨"NOP", 0x1FFFFFFFFF, 0x1C00000000⟩, by decide, rfl, by decide⟩
theorem enc : Statement .enc := ⟨⟨"ENC", 0x1FFFFFFFFF, 0x1C00000001⟩, by decide, rfl, by decide⟩
theorem dec : Statement .dec := ⟨⟨"DEC", 0x1FFFFFFFFF, 0x1C00000002⟩, by decide, rfl, by decide⟩
theorem clrerr : Statement .clrerr := ⟨⟨"CLRERR", 0x1FFFFFFFFF, 0x1C00000003⟩, by decide, rfl, by decide⟩
theorem srst : Statement .srst := ⟨⟨"SRST", 0x1FFFFFFFFF, 0x1C00000004⟩, by decide, rfl, by decide⟩
theorem cmd (v : Word) : Statement (.cmd v) :=
  ⟨⟨"CMD", 0b11111#5 ++ 0#32, 0b11100#5 ++ 0#32⟩, by decide, rfl, selects_high _ true _ v _ _ (by decide)⟩
theorem rdctrl : Statement .rdctrl := ⟨⟨"RDCTRL", 0x1F00000000, 0x0C00000000⟩, by decide, rfl, by decide⟩
theorem wrstat (v : Word) : Statement (.wrstat v) :=
  ⟨⟨"WRSTAT", 0b11111#5 ++ 0#32, 0b11101#5 ++ 0#32⟩, by decide, rfl, selects_high _ true _ v _ _ (by decide)⟩
theorem rdstat : Statement .rdstat := ⟨⟨"RDSTAT", 0x1F00000000, 0x0D00000000⟩, by decide, rfl, by decide⟩
theorem wrrsv (a0 : Fin 2) (v : Word) : Statement (.wrrsv a0 v) :=
  ⟨⟨"WRRSV", 0b11110#5 ++ 0#32, 0b11110#5 ++ 0#32⟩, by decide, rfl,
    selects_high _ true _ v _ _ (by revert a0; decide)⟩
theorem rdrsv (a0 : Fin 2) : Statement (.rdrsv a0) :=
  ⟨⟨"RDRSV", 0b11110#5 ++ 0#32, 0b01110#5 ++ 0#32⟩, by decide, rfl,
    selects_high _ false _ 0 _ _ (by revert a0; decide)⟩
theorem encround : Statement .encround := ⟨⟨"ENCROUND", 0x3, 0x2⟩, by decide, rfl, by decide⟩
theorem decround : Statement .decround := ⟨⟨"DECROUND", 0x3, 0x3⟩, by decide, rfl, by decide⟩
theorem idle : Statement .idle := ⟨⟨"IDLE", 0x2, 0x0⟩, by decide, rfl, by decide⟩

end Sys2Proof.Laws.TableRow
end

