-- ==== Sys2Proof/Laws/Run.lean ====
section
/-! SUPPORT. Steps and runs: what a step does for each turn at the head of the agenda, and how runs are put together.
Proofs about several steps cite these and do not unfold `step` or `Host.Core.run`. -/

namespace Sys2Proof.Machine

/-! ## One step -/

theorem step_access {s : State} {a : Access} {rest : List Turn} (h : s.agenda = .access a :: rest) :
    step s = exec (decodeAccess a) { s with agenda := rest } := by
  simp [step, nextTurn, h, runTurn]

theorem step_ctl {s : State} {rest : List Turn} (h : s.agenda = .ctl :: rest) :
    step s = runTurn .ctl { s with agenda := rest } := by
  simp [step, nextTurn, h]

theorem step_reset {s : State} {rest : List Turn} (h : s.agenda = .reset :: rest) :
    step s = .next { State.reset with agenda := rest } := by
  simp only [step, nextTurn, h, runTurn]; rfl

/-- Any turn at the head but a wait is the turn taken. -/
theorem step_turn {s : State} {u : Turn} {rest : List Turn} (hu : u ≠ .wait) (h : s.agenda = u :: rest) :
    step s = runTurn u { s with agenda := rest } := by
  cases u with
  | wait => exact absurd rfl hu
  | _ => simp [step, nextTurn, h]

/-- With nothing on the agenda the controller moves (log 2). -/
theorem step_nil {s : State} (h : s.agenda = []) : step s = runTurn .ctl s := by
  simp [step, nextTurn, h]

/-! ## Runs -/

theorem run_succ (k : Nat) {s t : State} (h : step s = .next t) : core.run (k + 1) s = core.run k t := by
  have h' : core.step s = .next t := h
  simp only [Host.Core.run, h']

theorem run_add {a : Nat} (b : Nat) {s t : State} (h : core.run a s = .next t) :
    core.run (a + b) s = core.run b t := by
  induction a generalizing s with
  | zero => cases h; simp
  | succ n ih =>
    simp only [Host.Core.run] at h
    cases hs : step s with
    | next s' =>
      rw [show core.step s = .next s' from hs] at h
      rw [show n + 1 + b = (n + b) + 1 by omega, run_succ _ hs]
      exact ih h
    | fault r => rw [show core.step s = .fault r from hs] at h; cases h
    | refused r => rw [show core.step s = .refused r from hs] at h; cases h

/-! ## The turns of a cycle -/

theorem runTurns_one (a : Turn) (s : State) : runTurns [a] s = runTurn a s := by
  simp only [runTurns]; cases runTurn a s <;> rfl

theorem runTurns_two {a : Turn} (b : Turn) {s u : State} (h : runTurn a s = .next u) :
    runTurns [a, b] s = runTurn b u := by
  simp only [runTurns, h]; cases runTurn b u <;> rfl

end Sys2Proof.Machine
end

