-- ==== Sys2Proof/Tests/Slice0.lean ====
section
/-! SUPPORT. Tests: ill-formed terms refused, words of the spec decoded, the functions and one step of every instruction
on the spec's own examples, and for every statement of Obligations.lean a state and operands that meet its hypotheses. The
expected values are those of spec/95_test_vectors.md (V-HOST row by number) and of the rules named. -/

namespace Sys2Proof.Tests

open Sys2Proof Sys2Proof.Machine

/-! ## The states of V-HOST, and others -/

/-- The key of the bytes `00 .. 1F` and the block of the bytes `00 .. 0F` (44_round_controller.md R176). -/
def key176 : Key :=
  ⟨0x03020100, 0x07060504, 0x0B0A0908, 0x0F0E0D0C, 0x13121110, 0x17161514, 0x1B1A1918, 0x1F1E1D1C⟩
def blk176 : Block := ⟨0x03020100, 0x07060504, 0x0B0A0908, 0x0F0E0D0C⟩
def zeroKey : Key := ⟨0, 0, 0, 0, 0, 0, 0, 0⟩
/-- The ciphertext of V-ENC-1. -/
def cipher1 : Block := ⟨0xEBB400F1, 0x23FD251D, 0x747E957F, 0x3D254B6B⟩

/-- `S0`. -/
def s0 : State := State.reset
/-- Encrypting, `RND = r`, with the block and key of R176. -/
def encrypting (r : Fin 16) : State := { s0 with st := blk176, key := key176, busy := true, rnd := r }
/-- Decrypting, `RND = r`, with the block and key of R176. -/
def decrypting (r : Fin 16) : State := { encrypting r with dir := true }
/-- `Sdone`. -/
def sDone : State := { s0 with st := cipher1, done := true }
/-- `Serr`. -/
def sErr : State := { s0 with err := true, ecause := 3 }

/-- The state after the step that runs the transaction word `w`. -/
def after (w : Nat) (s : State) : Option State :=
  match step (s.withFetchWord 40 w) with
  | .next t => some t
  | .fault _ => none
  | .refused _ => none

/-- The state after the controller's step. -/
def afterCtl (s : State) : Option State :=
  match runTurn .ctl s with
  | .next t => some t
  | .fault _ => none
  | .refused _ => none

/-! ## Well-formedness -/

theorem test_wellFormed_refuses_commands :
    (Instr.cmd 0).wellFormed = false ∧ (Instr.cmd 1).wellFormed = false ∧ (Instr.cmd 2).wellFormed = false ∧
    (Instr.cmd 3).wellFormed = false ∧ (Instr.cmd 4).wellFormed = false := by decide
theorem test_wellFormed_accepts_reserved :
    (Instr.cmd 5).wellFormed = true ∧ (Instr.cmd 9).wellFormed = true ∧
    (Instr.cmd 0xFFFFFFFF).wellFormed = true := by decide

/-! ## Decoding: words of V-HOST and of 30_encoding.md R88, R89 -/

theorem test_decode_ldkey : decodeTableWord 40 0x130F0E0D0C = some (.ldkey 3 0x0F0E0D0C) := by decide
theorem test_decode_rdkey : decodeTableWord 40 0x0300000000 = some (.rdkey 3) := by decide
theorem test_decode_rdkey_ignores_wd : decodeTableWord 40 0x07FFFFFFFF = some (.rdkey 7) := by decide
theorem test_decode_ldblk : decodeTableWord 40 0x1ADEADBEEF = some (.ldblk 2 0xDEADBEEF) := by decide
theorem test_decode_rdblk : decodeTableWord 40 0x0B00000000 = some (.rdblk 3) := by decide
theorem test_decode_nop : decodeTableWord 40 0x1C00000000 = some .nop := by decide
theorem test_decode_enc : decodeTableWord 40 0x1C00000001 = some .enc := by decide
theorem test_decode_dec : decodeTableWord 40 0x1C00000002 = some .dec := by decide
theorem test_decode_clrerr : decodeTableWord 40 0x1C00000003 = some .clrerr := by decide
theorem test_decode_srst : decodeTableWord 40 0x1C00000004 = some .srst := by decide
theorem test_decode_cmd : decodeTableWord 40 0x1C00000009 = some (.cmd 0x00000009) := by decide
theorem test_decode_cmd_top : decodeTableWord 40 0x1C80000000 = some (.cmd 0x80000000) := by decide
theorem test_decode_rdctrl : decodeTableWord 40 0x0C00000000 = some .rdctrl := by decide
theorem test_decode_wrstat : decodeTableWord 40 0x1DFFFFFFFF = some (.wrstat 0xFFFFFFFF) := by decide
theorem test_decode_rdstat : decodeTableWord 40 0x0D00000000 = some .rdstat := by decide
theorem test_decode_wrrsv : decodeTableWord 40 0x1F12345678 = some (.wrrsv 1 0x12345678) := by decide
theorem test_decode_rdrsv : decodeTableWord 40 0x0E00000000 = some (.rdrsv 0) := by decide
theorem test_decode_encround : decodeTableWord 8 0b10 = some .encround := by decide
theorem test_decode_decround : decodeTableWord 8 0b11 = some .decround := by decide
theorem test_decode_idle :
    decodeTableWord 8 0b00 = some .idle ∧ decodeTableWord 8 0b01 = some .idle := by decide
theorem test_decode_rejects_wide_numbers :
    decodeNat .bus 0x2000000000 = .error .notABusWord ∧ decodeNat .ctl 4 = .error .notASelector ∧
    decodeTableWord 40 0x2000000000 = none := by decide

/-! ## The functions, on the examples of their rules -/

/-- R110, R111, R113, R114. -/
theorem test_primitives :
    add32 0xA5A5A5A5 0x3C3C3C3C = 0xE1E1E1E1 ∧ sub32 0 0x3C3C3C3C = 0xC3C3C3C4 ∧
    rotl32 0x12345678 7 = 0x1A2B3C09 ∧ rotl32 0x80000001 0 = 0x80000001 ∧ rotl32 0x12345678 32 = 0x12345678 ∧
    rotr32 0x12345678 7 = 0xF02468AC := by decide
/-- R119, R120. -/
theorem test_confuse :
    confuse params 0x12345678 = 0xE7180CF9 ∧ confuse params 0x66666661 = 0 ∧
    deconfuse params 0x12345678 = 0x164D89D5 ∧ deconfuse params 0 = 0x66666661 := by decide
/-- R130, R134 (b), (c). -/
theorem test_subkey :
    subkey params key176 5 2 = 0x8F0FA28F ∧ subkey params key176 15 3 = 0x3CE02C28 ∧
    subkey params key176 0 0 = 0x03020100 := by decide
/-- R140, R141, R144 (c), (f). -/
theorem test_round_function :
    rf params 0x12345678 0x9ABCDEF0 7 = 0xE55D100A ∧ rf params 0x12345678 0x9ABCDEF0 15 = 0xF6A8837F ∧
    irf params 0xE55D100A 0x9ABCDEF0 7 = 0x12345678 ∧ irf params 0x12345678 0x9ABCDEF0 7 = 0xCC7E88D7 := by decide
/-- R150, R151. -/
theorem test_mix :
    mix params ⟨0x01234567, 0x89ABCDEF, 0xFEDCBA98, 0x76543210⟩ =
      ⟨0x345AF896, 0x6C7F0A19, 0x9AFC5630, 0x3D4E1F6C⟩ ∧
    imix params ⟨0x01234567, 0x89ABCDEF, 0xFEDCBA98, 0x76543210⟩ =
      ⟨0x056B412F, 0x40224022, 0xB9B93131, 0xC5D4A3B2⟩ := by decide
/-- R163, R164: the zero block under the zero key. -/
theorem test_encrypt : encrypt params ⟨0, 0, 0, 0⟩ zeroKey = cipher1 := by decide +kernel
theorem test_decrypt :
    decrypt params ⟨0, 0, 0, 0⟩ zeroKey = ⟨0xBF26DC6D, 0x59FF436A, 0x7DC0C562, 0x2C4EEB93⟩ := by decide +kernel
/-- 00_scope.md R5, R6: the sizes fit together. -/
theorem test_sizes :
    Config.windowBytes = 2 ^ Config.aw * (Config.dw / 8) ∧ Config.nr = 2 ^ Config.rndw ∧
    blockSize = Config.nb * (Config.w / 8) ∧ blk176.toList.length = Config.nb ∧ key176.toList.length = Config.nk := by decide
/-- R52. -/
theorem test_bytes : bytesToWords [0, 1, 2, 3, 4, 5, 6, 7, 8, 9, 10, 11, 12, 13, 14, 15] = blk176.toList := by decide
/-- R93. -/
theorem test_statement_text :
    stmtText (.ldkey 3 0x0F0E0D0C) = "LDKEY 3, 0x0F0E0D0C" ∧ stmtText (.wrrsv 1 0x12345678) = "WRRSV 15, 0x12345678" :=
  ⟨rfl, rfl⟩

/-! ## One step of every instruction -/

/-- Row 1. -/
theorem test_ldkey : after 0x130F0E0D0C s0 = some { s0 with key := { zeroKey with k3 := 0x0F0E0D0C } } := by decide
/-- Row 22. -/
theorem test_ldkey_busy :
    after 0x10DEADBEEF (encrypting 7) = some { encrypting 7 with err := true, ecause := 1 } := by decide
/-- R182. -/
theorem test_rdkey : after 0x0300000000 { s0 with key := key176 } = some { s0 with key := key176 } := by decide
/-- Row 37. -/
theorem test_ldblk : after 0x1923FD251D sDone = some { sDone with done := false } := by decide
/-- Row 23. -/
theorem test_ldblk_busy :
    after 0x1ADEADBEEF (encrypting 7) = some { encrypting 7 with err := true, ecause := 1 } := by decide
/-- Row 33. -/
theorem test_rdblk : after 0x0800000000 sDone = some { sDone with rd := 0xEBB400F1 } := by decide
/-- Row 26. -/
theorem test_rdblk_busy : after 0x0800000000 (encrypting 7) = some (encrypting 7) := by decide
/-- Row 28. -/
theorem test_nop : after 0x1C00000000 (encrypting 7) = some (encrypting 7) := by decide
/-- Row 47. -/
theorem test_enc : after 0x1C00000001 sErr = some { sErr with busy := true } := by decide
/-- Row 24. -/
theorem test_enc_busy :
    after 0x1C00000001 (encrypting 7) = some { encrypting 7 with err := true, ecause := 1 } := by decide
/-- Row 39. -/
theorem test_dec :
    after 0x1C00000002 sDone = some { sDone with busy := true, dir := true, rnd := 15, done := false } := by decide
/-- Row 25. -/
theorem test_dec_busy :
    after 0x1C00000002 (encrypting 7) = some { encrypting 7 with err := true, ecause := 1 } := by decide
/-- Row 46. -/
theorem test_clrerr : after 0x1C00000003 sErr = some s0 := by decide
/-- Row 32. -/
theorem test_srst : after 0x1C00000004 (encrypting 7) = some s0 := by decide
/-- Row 12. -/
theorem test_cmd : after 0x1C00000009 s0 = some { s0 with err := true, ecause := 2 } := by decide
/-- Row 44. -/
theorem test_cmd_second_error : after 0x1C00000005 sErr = some sErr := by decide
/-- Row 15. -/
theorem test_rdctrl : after 0x0C00000000 s0 = some s0 := by decide
/-- Row 31. -/
theorem test_wrstat :
    after 0x1DFFFFFFFF (encrypting 7) = some { encrypting 7 with err := true, ecause := 3 } := by decide
/-- Row 41. -/
theorem test_rdstat_decrypting :
    after 0x0D00000000 (decrypting 12) = some { decrypting 12 with rd := 0x00000005 } := by decide
/-- Row 45. -/
theorem test_rdstat_error : after 0x0D00000000 sErr = some { sErr with rd := 0x00000038 } := by decide
/-- Row 19. -/
theorem test_wrrsv : after 0x1F12345678 s0 = some { s0 with err := true, ecause := 3 } := by decide
/-- Row 21. -/
theorem test_rdrsv : after 0x0F00000000 s0 = some s0 := by decide
/-- R176: round 0. -/
theorem test_encround :
    afterCtl (encrypting 0) =
      some { encrypting 1 with st := ⟨0xC6E468E8, 0x53E9C60C, 0x978A2CEA, 0x77200AB7⟩ } := by decide
/-- R165: the last round step ends the operation. -/
theorem test_encround_last :
    (afterCtl (encrypting 15)).map (fun t => (t.busy, t.done, t.rnd, t.dir)) = some (false, true, 0, false) := by decide
/-- R176: round 15 undone. -/
theorem test_decround :
    afterCtl { decrypting 15 with st := ⟨0xA7028D72, 0xB5DDBA84, 0xF3E0E684, 0xD619F4D4⟩ } =
      some { decrypting 14 with st := ⟨0x4E8A743A, 0xC0DF3D08, 0x41281834, 0xC90C6B8C⟩ } := by decide
/-- R166: the last round step ends the operation. -/
theorem test_decround_last :
    (afterCtl (decrypting 0)).map (fun t => (t.busy, t.done, t.rnd, t.dir)) = some (false, true, 0, true) := by decide
/-- R160. -/
theorem test_idle : afterCtl sDone = some sDone := by decide
/-- The selector placed by `withFetchWord` is run by the next step. -/
theorem test_placed_selector :
    step (s0.withFetchWord 8 0b10) = exec .encround { s0 with busy := true } := by rfl

/-! ## Witnesses: hypotheses that can be met -/

theorem witness_DecodeOfEncodeIsIdentity :
    (Instr.cmd 5).wellFormed = true ∧ (Instr.ldkey 7 0xFFFFFFFF).wellFormed = true ∧
    Instr.idle.wellFormed = true := by decide
theorem witness_OpcodeTableSelectsTheDecodedRow :
    ∃ r ∈ busTable, ∃ r' ∈ busTable, r ≠ r' ∧ r.selects 0x1C00000004#37 = true ∧ r'.selects 0x1C00000004#37 = true := by
  decide
theorem witness_ScriptStatementsAreTheirAccesses :
    (∀ n : Nat, Stmt.cmd 4 ≠ .step n) ∧ stmtCode (.rd 15) = some 0x0F00000000 ∧ stmtInstr (.rd 15) = some (.rdrsv 1) :=
  ⟨fun _ h => (nomatch h), by decide, by decide⟩
theorem witness_busy_and_idle :
    (encrypting 0).busy = true ∧ (decrypting 15).busy = true ∧ s0.busy = false ∧ sDone.busy = false := by decide
theorem witness_LdkeyWritesOneKeyWord : (encrypting 15).busy = true ∧ sErr.busy = false := by decide
theorem witness_LdblkWritesOneBlockWord : (decrypting 0).busy = true ∧ sDone.busy = false := by decide
theorem witness_RdblkReadsTheBlockWhenIdle : sDone.busy = false ∧ (encrypting 0).busy = true := by decide
theorem witness_EncStartsAnEncryption : (encrypting 0).busy = true ∧ s0.busy = false ∧ s0 = State.reset := by decide
theorem witness_DecStartsADecryption : (decrypting 0).busy = true ∧ sErr.busy = false ∧ s0 = State.reset := by decide
theorem witness_Inv_reset : s0.Inv := ⟨by decide, by decide, by decide, by decide⟩
theorem witness_Inv_error : sErr.Inv := ⟨by decide, by decide, by decide, by decide⟩
theorem witness_Inv_busy : (decrypting 15).Inv := ⟨by decide, by decide, by decide, by decide⟩
theorem witness_ClrerrClearsTheErrorRecord : s0.Inv ∧ s0.err = false := ⟨witness_Inv_reset, rfl⟩
theorem witness_ReservedCommandsAreIllegal : 4 < (5#32).toNat ∧ 4 < (0xFFFFFFFF#32).toNat := by decide
theorem witness_RdstatReadsTheFlags : sErr.Inv ∧ (statusWord sErr).toNat = 0x00 + 0x38 := ⟨witness_Inv_error, by decide⟩
theorem witness_EncroundStepRunsOneRound :
    (encrypting 15).busy = true ∧ (encrypting 15).dir = false ∧ (encrypting 15).rnd = 15 ∧
    (encrypting 14).busy = true ∧ (encrypting 14).dir = false ∧ (encrypting 14).rnd ≠ 15 := by decide
theorem witness_DecroundStepRunsOneRound :
    (decrypting 0).busy = true ∧ (decrypting 0).dir = true ∧ (decrypting 0).rnd = 0 ∧
    (decrypting 1).busy = true ∧ (decrypting 1).dir = true ∧ (decrypting 1).rnd ≠ 0 := by decide
theorem witness_IdleControllerChangesNothing : sDone.busy = false := by decide
theorem witness_TermsThatAreNoStepAreRefused :
    s0.busy = false ∧ (decrypting 0).dir = true ∧ (encrypting 0).dir = false ∧ (encrypting 0).busy = true ∧
    (4#32).toNat ≤ 4 ∧ (0#32).toNat ≤ 4 := by decide
theorem witness_StepRunsTheDecodedInstruction :
    8 < 40 ∧ decodeTableWord 40 0x1FFFFFFFFF = some (.wrrsv 1 0xFFFFFFFF) ∧
    8 ≤ 8 ∧ decodeTableWord 8 0b11 = some .decround := by decide
theorem witness_StepKeepsTheInvariant : ∃ t, (decrypting 15).Inv ∧ step (decrypting 15) = .next t :=
  ⟨_, witness_Inv_busy, rfl⟩
theorem witness_ResetMeetsTheInvariant : ∃ t, runTurn .reset (encrypting 7) = .next t := ⟨_, rfl⟩
theorem witness_HostReadsAreMemRead :
    (0#4).toNat < 8 ∧ (7#4).toNat < 8 ∧ (8#4).toNat = 8 + (0 : Fin 4).val ∧ (11#4).toNat = 8 + (3 : Fin 4).val ∧ (12#4).toNat = 12 ∧
    (13#4).toNat = 13 ∧ 14 ≤ (14#4).toNat ∧ 14 ≤ (15#4).toNat ∧ ¬(4 = 4 ∧ 64 % 4 = 0 ∧ 64 ≤ 60) ∧ ¬(2 = 4 ∧ 60 % 4 = 0 ∧ 60 ≤ 60) ∧
    ¬(4 = 4 ∧ 58 % 4 = 0 ∧ 58 ≤ 60) := by decide
theorem witness_HostWritesAreMemWrite : ¬(4 = 4 ∧ 61 % 4 = 0 ∧ 61 ≤ 60) ∧ ¬(1 = 4 ∧ 0 % 4 = 0 ∧ 0 ≤ 60) := by decide
theorem witness_RegistersChangeOnlyByTheirWriters :
    (∃ t, exec (.ldblk 3 1) s0 = .next t ∧ t.st ≠ s0.st) ∧ (∃ t, exec (.ldkey 7 1) s0 = .next t ∧ t.key ≠ s0.key) ∧
    (∃ t, exec .dec s0 = .next t ∧ t.rnd ≠ s0.rnd ∧ t.dir ≠ s0.dir ∧ t.busy ≠ s0.busy) ∧
    (∃ t, exec .encround (encrypting 15) = .next t ∧ t.done ≠ (encrypting 15).done) ∧
    (∃ t, exec (.wrstat 0) s0 = .next t ∧ (t.err ≠ s0.err ∨ t.ecause ≠ s0.ecause)) ∧
    (∃ t, exec .rdstat sErr = .next t ∧ t.rd ≠ 0) :=
  ⟨⟨_, rfl, by decide⟩, ⟨_, rfl, by decide⟩, ⟨_, rfl, by decide⟩, ⟨_, rfl, by decide⟩, ⟨_, rfl, by decide⟩,
    ⟨_, rfl, by decide⟩⟩
theorem witness_SequencingStateMovesAsListed :
    (∃ t, exec .encround (encrypting 15) = .next t ∧ (encrypting 15).rnd = 15) ∧
    (∃ t, exec .decround (decrypting 0) = .next t ∧ (decrypting 0).rnd = 0) ∧
    (∃ t, runTurn .reset (decrypting 3) = .next t) := ⟨⟨_, rfl, rfl⟩, ⟨_, rfl, rfl⟩, ⟨_, rfl⟩⟩
theorem witness_ErrorsDoNotInhibit : ∃ t, exec .rdstat sErr = .next t := ⟨_, rfl⟩
theorem witness_NoAccessShowsTheKey : ∃ t, exec (decodeAccess (readOf 3)) { s0 with key := key176 } = .next t := ⟨_, rfl⟩
theorem witness_NoAccessShowsARunningOperation :
    ∃ t, (encrypting 7).busy = true ∧ exec (decodeAccess (readOf 11)) (encrypting 7) = .next t := ⟨_, rfl, rfl⟩
theorem witness_AccessesAreIdempotentButForStarts :
    (∃ t, exec .enc (encrypting 7) = .next t ∧ (encrypting 7).busy = true) ∧ (∃ t, exec (.ldkey 0 1) s0 = .next t) ∧
    (∃ t, s0.busy = false ∧ s0.err = false ∧ exec .enc s0 = .next t) ∧
    (∃ t, s0.busy = false ∧ s0.err = false ∧ exec .dec s0 = .next t) :=
  ⟨⟨_, rfl, rfl⟩, ⟨_, rfl⟩, ⟨_, rfl, rfl, rfl⟩, ⟨_, rfl, rfl, rfl⟩⟩
theorem witness_AccessesLeaveARunningOperationAlone :
    (encrypting 7).busy = true ∧ decodeAccess (writeOf 12 3) ≠ .srst ∧ decodeAccess (writeOf 12 5) ≠ .srst := by decide
theorem witness_WordArithmeticWraps :
    31 < 32 ∧ (0xFFFFFFFF#32).toNat ≤ (0xFFFFFFFF#32).toNat ∧ ¬ (1#32).toNat ≤ (0#32).toNat := by decide
theorem witness_RotationsMoveEveryBit : 0 < 32 ∧ 31 < 32 := by decide
theorem witness_KeyWordsReachTheirSubkeys : (1 : Word) ≠ zeroKey.get 7 ∧ kidx 15 0 = 7 ∧ kidx 15 1 ≠ 7 := by decide
theorem witness_ARoundReadsFourKeyWords :
    (∀ i : Fin 4, zeroKey.get (kidx 15 i) = (zeroKey.set 3 1).get (kidx 15 i)) ∧ zeroKey ≠ zeroKey.set 3 1 := by decide
theorem witness_BytesAndWordsRoundTrip : [1#8, 2#8, 3#8, 4#8].length % 4 = 0 := by decide
theorem witness_BytesAndWordsByIndex :
    (List.replicate 32 (7#8)).length = 4 * 8 ∧ 7 < 8 ∧ 31 < 4 * key176.toList.length := by decide
theorem witness_BlockBytesLieAtTheirOffsets :
    15 < 16 ∧ sDone.busy = false ∧ 63 < 64 ∧
    (Config.base + 64 < Config.base ∨ Config.base + 64 ≤ Config.base + 64) :=
  ⟨by decide, rfl, by decide, .inr (Nat.le_refl _)⟩
theorem witness_ByteLevelRoundTrip :
    (List.replicate 16 (1#8)).length = 16 ∧ (List.replicate 32 (2#8)).length = 32 ∧
    (List.replicate 15 (1#8)).length ≠ 16 ∧ (List.replicate 33 (1#8)).length ≠ 32 := by decide

/-- Quiet turns with fifteen of the controller's: reads, dropped writes, `NOP` and `CLRERR` between rounds. -/
def quietTurns : List Turn :=
  .access (readOf 13) :: .access (writeOf 0 7) :: List.replicate 15 .ctl ++
    [.access (writeOf 8 7), .access (writeOf 12 1), .access (writeOf 12 3), .access (writeOf 14 0)]

theorem witness_ARunningOperationCountsItsRounds :
    sErr.busy = false ∧ (∀ u ∈ quietTurns, u.quiet = true) ∧ quietTurns.count .ctl ≤ 15 ∧
    ([] : List Turn).count .ctl ≤ 15 := by decide
theorem witness_EncryptionByTheMachine :
    sDone.busy = false ∧ (∀ u ∈ quietTurns, u.quiet = true) ∧ quietTurns.count .ctl = 15 := by decide
theorem witness_DecryptionByTheMachine :
    s0.busy = false ∧ (∀ u ∈ List.replicate 15 Turn.ctl, u.quiet = true) ∧
    (List.replicate 15 Turn.ctl).count .ctl = 15 := by decide
theorem witness_EncThenDecRestoresTheBlock : sDone.busy = false := by decide
theorem witness_ABusyControllerFinishes :
    (encrypting 0).busy = true ∧ (encrypting 0).agenda = [] ∧ (decrypting 0).busy = true ∧
    (decrypting 0).agenda = [] := by decide
/-- A host that never stops: the command `c`, then polls for ever, one between every two turns of the controller. -/
def restlessHost (c : Word) : Nat → Turn
  | 0 => .access (writeOf 12 c)
  | n + 1 => if n % 2 = 0 then .access statAccess else .ctl

/-- The state a turn leaves. -/
def turnFrom (u : Turn) (s : State) : State :=
  match runTurn u s with
  | .next t => t
  | .fault _ => s
  | .refused _ => s

/-- The states of the execution of that host from reset. -/
def restless (c : Word) : Nat → State
  | 0 => s0
  | n + 1 => turnFrom (restlessHost c n) (restless c n)

theorem turnFrom_next {u : Turn} {s : State} (h : ∃ t, runTurn u s = .next t) : runTurn u s = .next (turnFrom u s) := by
  obtain ⟨t, h⟩ := h
  simp only [turnFrom, h]

theorem restless_isExecution {c : Word} (h : ∃ t, runTurn (.access (writeOf 12 c)) s0 = .next t) :
    IsExecution (restless c) (restlessHost c)
  | 0 => ⟨nofun, turnFrom_next h⟩
  | n + 1 => by
    by_cases hn : n % 2 = 0
    · have e : restlessHost c (n + 1) = .access statAccess := if_pos hn
      rw [e]
      exact ⟨nofun, (turnFrom_next ⟨_, rfl⟩).trans (by simp only [restless, e])⟩
    · have e : restlessHost c (n + 1) = .ctl := if_neg hn
      rw [e]
      exact ⟨nofun, (turnFrom_next ⟨_, runTurn_ctl _⟩).trans (by simp only [restless, e])⟩

theorem restless_polls (c : Word) (n : Nat) : ∃ m, n ≤ m ∧ restlessHost c m = .access statAccess :=
  ⟨2 * n + 1, by omega, if_pos (by omega)⟩

theorem restless_weaklyFair (c : Word) : WeaklyFair (restless c) (restlessHost c) := fun n _ =>
  ⟨2 * n + 2, by omega, if_neg (by omega)⟩

theorem witness_FairExecutionsFinishOperations :
    (IsExecution (restless 1) (restlessHost 1) ∧ WeaklyFair (restless 1) (restlessHost 1) ∧
      restlessHost 1 0 = .access (writeOf 12 1) ∧ (restless 1 0).busy = false ∧ decodeAccess (writeOf 12 1) = .enc) ∧
    (IsExecution (restless 2) (restlessHost 2) ∧ WeaklyFair (restless 2) (restlessHost 2) ∧
      restlessHost 2 0 = .access (writeOf 12 2) ∧ (restless 2 0).busy = false ∧ decodeAccess (writeOf 12 2) = .dec) ∧
    ((restless 1 1).busy = true ∧ (restless 2 1).busy = true) ∧
    ((∀ m, 1 ≤ m → restlessHost 1 m = .access statAccess ∨ restlessHost 1 m = .ctl ∨ restlessHost 1 m = .reset) ∧
      ∀ k, 1 ≤ k → ∃ m, k ≤ m ∧ restlessHost 1 m = .access statAccess) :=
  ⟨⟨restless_isExecution ⟨_, rfl⟩, restless_weaklyFair 1, rfl, rfl, by decide⟩,
    ⟨restless_isExecution ⟨_, rfl⟩, restless_weaklyFair 2, rfl, rfl, by decide⟩, ⟨rfl, rfl⟩,
    ⟨fun
      | 0, h => absurd h (by decide)
      | n + 1, _ => by simp only [restlessHost]; split <;> simp,
      fun k _ => restless_polls 1 k⟩⟩

theorem witness_ExecutionsAreTheRuns :
    (∀ n, restlessHost 1 n ≠ .wait) ∧ IsExecution (restless 1) (restlessHost 1) :=
  ⟨fun n => (restless_isExecution ⟨_, rfl⟩ n).1, restless_isExecution ⟨_, rfl⟩⟩

theorem witness_TheResultStaysReadable :
    (decodeStat (statusWord sDone)).busy = false ∧
    (∀ u ∈ [Turn.ctl, .access (writeOf 7 1), .access (writeOf 13 0), .access (readOf 8)], u.keepsBlock = true) := by decide
theorem witness_TheTransactionReturnsTheResult : sDone.busy = false ∧ sDone.errorFree = true := by decide

/-- A cycle with one access. -/
def cycle (a : Access) : PortIn := { rst := false, sel := true, we := a.we, wa := a.wa, wd := a.wd }

/-- A cycle with no access. -/
def idleCycle : PortIn := { cycle (readOf 0) with sel := false }

theorem witness_EventsOfOneCycleAreOrdered :
    ({ cycle (readOf 0) with rst := true } : PortIn).rst = true ∧
    (∃ u, (cycle (writeOf 12 3)).rst = false ∧ (cycle (writeOf 12 3)).sel = true ∧ (encrypting 15).busy = true ∧
      exec (decodeAccess (writeOf 12 3)) (encrypting 15) = .next u) ∧
    (8 ≤ (cycle (writeOf 11 0)).wa.toNat ∧ (cycle (writeOf 11 0)).wa.toNat < 12 ∧ (cycle (writeOf 11 0)).we = true) ∧
    ((idleCycle.rst = false ∧ idleCycle.sel = false) ∧ (encrypting 15).busy = true ∧ (decrypting 0).busy = true) ∧
    ((cycle (readOf 13)).rst = false ∧ (cycle (readOf 13)).we = false ∧ (cycle (readOf 13)).wa = 13) ∧
    decodeAccess ⟨(cycle (writeOf 12 4)).we, (cycle (writeOf 12 4)).wa, (cycle (writeOf 12 4)).wd⟩ = .srst ∧
    decodeAccess ⟨(cycle (writeOf 12 1)).we, (cycle (writeOf 12 1)).wa, (cycle (writeOf 12 1)).wd⟩ = .enc ∧
    decodeAccess ⟨(cycle (writeOf 12 2)).we, (cycle (writeOf 12 2)).wa, (cycle (writeOf 12 2)).wd⟩ = .dec ∧
    s0.busy = false :=
  ⟨rfl, ⟨_, rfl, rfl, rfl, rfl⟩, by decide, by decide, by decide, by decide, by decide, by decide, rfl⟩
theorem witness_PortOutputsAreTheReads :
    (cycle (readOf 13)).sel = true ∧ (cycle (readOf 13)).we = false ∧ (cycle (writeOf 0 0)).we = true ∧
    (cycle (readOf 13)).rst = false ∧ (cycle (writeOf 0 0)).rst = false ∧ s0.busy = false ∧
    idleCycle.rst = false ∧ idleCycle.sel = false := by decide
/-- R257 (b): a block write in the very cycle an operation ends is dropped with `E_BUSY`. -/
theorem test_cycle_late_block_write :
    clockCycle (cycle (writeOf 8 1)) true (encrypting 15) =
      .next { encrypting 15 with st := (encRound params blk176 key176 15), busy := false, done := true, rnd := 0, err := true, ecause := 1 } := by
  rfl

end Sys2Proof.Tests
end

section
/-! What an instruction that completes leaves behind, read backwards from the state it answers: the inversion of the
answers that `Sys2Proof/Laws/Exec.lean` gives only under a hypothesis on the state or the operand. -/

namespace Sys2Proof.Machine

/-- A write that needs an idle core always completes: dropped while busy, done otherwise (20_memory.md R57 line 6). -/
theorem whenIdle_next (s k : State) :
    whenIdle s k = .next (if s.busy then dropped 1 s else { k with rd := 0 }) := by
  obtain ⟨hb, e⟩ | ⟨hb, e⟩ := whenIdle_cases s k
  · rw [e, raise_eq_dropped, if_pos hb]; rfl
  · rw [e, accept_next, if_neg (by simp [hb])]

/-- `CMD v` completes only for a reserved `v`, and is then dropped with `E_ILLCMD`. -/
theorem of_exec_cmd {v : Word} {s t : State} (h : exec (.cmd v) s = .next t) :
    4 < v.toNat ∧ t = dropped 2 s := by
  by_cases hv : 4 < v.toNat
  · rw [exec_cmd hv, raise_eq_dropped] at h
    cases h
    exact ⟨hv, rfl⟩
  · rw [exec_cmd_refused (Nat.le_of_not_lt hv)] at h
    cases h

/-- `ENCROUND` completes only where the selector names it (44_round_controller.md R165). -/
theorem of_exec_encround {s t : State} (h : exec .encround s = .next t) :
    s.busy = true ∧ s.dir = false ∧ t = { encStep s with rd := 0 } := by
  simp only [exec, execEncround] at h
  split at h
  next hsel =>
    cases h
    simpa using hsel
  next => cases h

/-- `DECROUND` completes only where the selector names it (44_round_controller.md R166). -/
theorem of_exec_decround {s t : State} (h : exec .decround s = .next t) :
    s.busy = true ∧ s.dir = true ∧ t = { decStep s with rd := 0 } := by
  simp only [exec, execDecround] at h
  split at h
  next hsel =>
    cases h
    simpa using hsel
  next => cases h

/-- `IDLE` completes only where the selector names it (44_round_controller.md R160). -/
theorem of_exec_idle {s t : State} (h : exec .idle s = .next t) :
    s.busy = false ∧ t = { s with rd := 0 } := by
  simp only [exec, execIdle] at h
  split at h
  next => cases h
  next hsel =>
    cases h
    simpa using hsel

end Sys2Proof.Machine
end

section
/-! The sequencing state (`BUSY`, `DIR`, `RND`) of 10_state.md R25 and how each shared operation moves it. -/

namespace Sys2Proof.Machine

/-- The triple whose transitions R25 lists. -/
def sequencing (s : State) : Bool × Bool × Fin 16 := (s.busy, s.dir, s.rnd)

/-- A dropped write is no transition. -/
theorem sequencing_of_raise {e : Cause} {s t : State} (h : raise e s = .next t) : sequencing t = sequencing s := by
  rw [raise_next] at h
  cases h
  rfl

/-- Only an accepted write can be a transition. -/
theorem sequencing_of_whenIdle {s k t : State} (h : whenIdle s k = .next t) :
    sequencing t = if s.busy then sequencing s else sequencing k := by
  rw [whenIdle_next] at h
  cases h
  split <;> rfl

/-- A key or block write is no transition, accepted or dropped. -/
theorem sequencing_of_whenIdle_same {s k t : State} (hk : sequencing k = sequencing s) (h : whenIdle s k = .next t) :
    sequencing t = sequencing s := by
  rw [sequencing_of_whenIdle h, hk, ite_self]

/-- Round steps of encryption count up to 15, then the operation ends. -/
theorem sequencing_encStep (s : State) :
    sequencing (encStep s) = if s.rnd = 15 then (false, s.dir, 0) else (s.busy, s.dir, s.rnd + 1) := by
  split
  next hlast => rw [encStep_last hlast]; rfl
  next hmid => rw [encStep_mid hmid]; rfl

/-- Round steps of decryption count down to 0, then the operation ends. -/
theorem sequencing_decStep (s : State) :
    sequencing (decStep s) = if s.rnd = 0 then (false, s.dir, 0) else (s.busy, s.dir, s.rnd - 1) := by
  split
  next hlast => rw [decStep_last hlast]; rfl
  next hmid => rw [decStep_mid hmid]; rfl

theorem sequencing_of_encround {s t : State} (h : exec .encround s = .next t) :
    sequencing t = if s.rnd = 15 then (false, false, 0) else (true, false, s.rnd + 1) := by
  obtain ⟨hbusy, hdir, rfl⟩ := of_exec_encround h
  exact (sequencing_encStep s).trans (by rw [hbusy, hdir])

theorem sequencing_of_decround {s t : State} (h : exec .decround s = .next t) :
    sequencing t = if s.rnd = 0 then (false, true, 0) else (true, true, s.rnd - 1) := by
  obtain ⟨hbusy, hdir, rfl⟩ := of_exec_decround h
  exact (sequencing_decStep s).trans (by rw [hbusy, hdir])

/-- The sixteenth round step of encryption sets `DONE` (R28). -/
theorem done_of_last_encround {s t : State} (h : exec .encround s = .next t) (hlast : s.rnd = 15) :
    t.done = true := by
  obtain ⟨-, -, rfl⟩ := of_exec_encround h
  rw [encStep_last hlast, finishOp_done]

/-- The sixteenth round step of decryption sets `DONE` (R28). -/
theorem done_of_last_decround {s t : State} (h : exec .decround s = .next t) (hlast : s.rnd = 0) :
    t.done = true := by
  obtain ⟨-, -, rfl⟩ := of_exec_decround h
  rw [decStep_last hlast, finishOp_done]

/-- Settles O29: each instruction is a transition of R25, a write that may be dropped, or one that leaves the triple
as it is. -/
theorem sequencingStateMovesAsListed : Obligations.SequencingStateMovesAsListed := by
  refine ⟨fun i s t h => ?_, fun s t => done_of_last_encround, fun s t => done_of_last_decround, fun s t h => ?_⟩
  · cases i with
    | ldkey j v => exact sequencing_of_whenIdle_same (k := writeKey j v s) rfl h
    | ldblk j v => exact sequencing_of_whenIdle_same (k := writeBlk j v s) rfl h
    | enc => exact sequencing_of_whenIdle (k := startEnc s) h
    | dec => exact sequencing_of_whenIdle (k := startDec s) h
    | cmd v =>
      obtain ⟨-, rfl⟩ := of_exec_cmd h
      rfl
    | wrstat v => exact sequencing_of_raise h
    | wrrsv a0 v => exact sequencing_of_raise h
    | encround => exact sequencing_of_encround h
    | decround => exact sequencing_of_decround h
    | idle =>
      obtain ⟨-, rfl⟩ := of_exec_idle h
      rfl
    | rdkey | rdblk | nop | clrerr | srst | rdctrl | rdstat | rdrsv => cases h; rfl
  · cases h
    rfl

end Sys2Proof.Machine
end

section
/-! The access primitives of the register window (20_memory.md R56 to R58): which calls are accesses, what a read and a
write do at each kind of word address, and that the decoded host access does the same. -/

namespace Sys2Proof.Machine

/-! ## Which calls are accesses (R58) -/

theorem isAccess_iff (off n : Nat) : isAccess off n = true ↔ n = 4 ∧ off % 4 = 0 ∧ off ≤ 60 := by
  simp [isAccess, and_assoc]

/-- Every word address has its access. -/
theorem isAccess_wordAddress (wa : BitVec 4) : isAccess (4 * wa.toNat) 4 = true :=
  (isAccess_iff _ _).2 ⟨rfl, by omega, by omega⟩

/-- The word address of byte offset `4*wa`. -/
theorem wordAddress_eq (wa : BitVec 4) : BitVec.ofNat 4 (4 * wa.toNat / 4) = wa := by
  rw [Nat.mul_div_cancel_left _ (by decide), BitVec.ofNat_toNat, BitVec.setWidth_eq]

theorem memRead_wordAddress (wa : BitVec 4) (s : State) : memRead (4 * wa.toNat) 4 s = .next (windowRead wa s) := by
  rw [memRead, if_pos (isAccess_wordAddress wa), wordAddress_eq]

theorem memWrite_wordAddress (wa : BitVec 4) (wd : Word) (s : State) :
    memWrite (4 * wa.toNat) 4 wd s = windowWrite wa wd s := by
  rw [memWrite, if_pos (isAccess_wordAddress wa), wordAddress_eq]

theorem memRead_refused {off n : Nat} (h : ¬(n = 4 ∧ off % 4 = 0 ∧ off ≤ 60)) (s : State) :
    memRead off n s = .refused .noSuchAccess :=
  if_neg (mt (isAccess_iff off n).1 h)

theorem memWrite_refused {off n : Nat} (h : ¬(n = 4 ∧ off % 4 = 0 ∧ off ≤ 60)) (wd : Word) (s : State) :
    memWrite off n wd s = .refused .noSuchAccess :=
  if_neg (mt (isAccess_iff off n).1 h)

/-! ## Reads, by word address (R56) -/

theorem windowRead_key {wa : BitVec 4} (h : wa.toNat < 8) (s : State) : windowRead wa s = 0 := if_pos h

/-- The index of a block word is its word address less 8 (30_encoding.md R85). -/
theorem blockIndex_eq {wa : BitVec 4} {j : Fin 4} (h : wa.toNat = 8 + j.val) : blockIndex wa = j :=
  Fin.ext (by simp only [blockIndex]; omega)

theorem windowRead_blk {wa : BitVec 4} (j : Fin 4) (h : wa.toNat = 8 + j.val) (s : State) :
    windowRead wa s = readBlk j s := by
  rw [windowRead, if_neg (by omega), if_pos (by omega), blockIndex_eq h]

theorem windowRead_ctrl {wa : BitVec 4} (h : wa.toNat = 12) (s : State) : windowRead wa s = 0 := by
  simp [windowRead, h]

theorem windowRead_stat {wa : BitVec 4} (h : wa.toNat = 13) (s : State) : windowRead wa s = statusWord s := by
  simp [windowRead, h]

theorem windowRead_rsv {wa : BitVec 4} (h : 14 ≤ wa.toNat) (s : State) : windowRead wa s = 0 := by
  rw [windowRead, if_neg (by omega), if_neg (by omega), if_neg (by omega), if_neg (by omega)]

/-- The read a host access decodes to puts the window's value on the read data and changes no register. -/
theorem exec_read (wa : BitVec 4) (wd : Word) (s : State) :
    exec (decodeAccess ⟨false, wa, wd⟩) s = .next { s with rd := windowRead wa s } := by
  obtain ⟨j, rfl⟩ | ⟨j, rfl⟩ | rfl | rfl | ⟨j, rfl⟩ := wa_cases wa
  · rw [decodeAccess_key, windowRead_key (by bv_omega)]; exact exec_rdkey j s
  · rw [decodeAccess_blk, windowRead_blk j (by bv_omega)]; exact exec_rdblk j s
  · exact exec_rdctrl s
  · exact exec_rdstat s
  · rw [decodeAccess_rsv, windowRead_rsv (by bv_omega)]; exact exec_rdrsv j s

/-- Settles O26: the value is that of `windowRead`, address by address. -/
theorem hostReadsAreMemRead : Obligations.HostReadsAreMemRead := fun wa wd s =>
  ⟨⟨windowRead wa s, memRead_wordAddress wa s, exec_read wa wd s, (windowRead_key · s), (windowRead_blk · · s),
    (windowRead_ctrl · s), (windowRead_stat · s), (windowRead_rsv · s)⟩, fun _ _ h => memRead_refused h s⟩

/-! ## Writes, by word address (R57) -/

/-- A write of `STATUS` or of a reserved word, line 1. -/
theorem windowWrite_badAddr {wa : BitVec 4} (h : 13 ≤ wa.toNat) (wd : Word) (s : State) :
    windowWrite wa wd s = raise .eBadAddr s := if_pos h

/-- A write of a key word, lines 6 and 7. -/
theorem windowWrite_key {wa : BitVec 4} (j : Fin 8) (h : wa.toNat = j.val) (wd : Word) (s : State) :
    windowWrite wa wd s = whenIdle s (writeKey j wd s) := by
  have hj : keyIndex wa = j := Fin.ext (by simp only [keyIndex]; omega)
  simp only [windowWrite, whenIdle, hj, if_neg (show ¬13 ≤ wa.toNat by omega), show wa.toNat ≠ 12 by omega, false_and,
    if_false, if_pos (show wa.toNat < 8 by omega)]

/-- A write of a block word, lines 6 and 8. -/
theorem windowWrite_blk {wa : BitVec 4} (j : Fin 4) (h : wa.toNat = 8 + j.val) (wd : Word) (s : State) :
    windowWrite wa wd s = whenIdle s (writeBlk j wd s) := by
  simp only [windowWrite, whenIdle, blockIndex_eq h, if_neg (show ¬13 ≤ wa.toNat by omega),
    show wa.toNat ≠ 12 by omega, false_and, if_false, if_neg (show ¬wa.toNat < 8 by omega),
    if_pos (show wa.toNat < 12 by omega)]

/-- Data of a `CTRL` write (30_encoding.md R82): one of the five commands, or none. -/
theorem command_cases (v : Word) : v = 0#32 ∨ v = 1#32 ∨ v = 2#32 ∨ v = 3#32 ∨ v = 4#32 ∨ 4 < v.toNat := by
  simp only [← BitVec.toNat_inj, BitVec.toNat_ofNat]
  omega

/-- The fields `Z` and `OP` of format `CMD` rule a write out exactly when its data is above 4. -/
theorem illegalCommand {v : Word} (hv : 4 < v.toNat) : cmdZ v ≠ 0#29 ∨ 5 ≤ (cmdOp v).toNat := by
  by_cases hz : cmdZ v = 0#29
  · have hz' : v.toNat / 8 % 2 ^ 29 = 0 := by
      simpa [cmdZ, BitVec.extractLsb'_toNat, Nat.shiftRight_eq_div_pow] using congrArg BitVec.toNat hz
    have ho : (cmdOp v).toNat = v.toNat % 8 := by simp [cmdOp, BitVec.extractLsb'_toNat]
    exact .inr (by have := v.isLt; omega)
  · exact .inl hz

theorem windowWrite_illegal {v : Word} (hv : 4 < v.toNat) (s : State) : windowWrite 12#4 v s = raise .eIllCmd s :=
  (if_neg (by decide)).trans (if_pos ⟨rfl, illegalCommand hv⟩)

theorem decodeCommand_illegal {v : Word} (hv : 4 < v.toNat) : decodeCommand v = .cmd v := by
  rw [decodeCommand_eq, if_neg (by omega), if_neg (by omega), if_neg (by omega), if_neg (by omega), if_neg (by omega)]

/-- A write of `CTRL`, lines 2 to 6, 9 and 10. -/
theorem windowWrite_ctrl (v : Word) (s : State) : windowWrite 12#4 v s = exec (decodeCommand v) s := by
  obtain rfl | rfl | rfl | rfl | rfl | hv := command_cases v
  case inr.inr.inr.inr.inr => rw [windowWrite_illegal hv, decodeCommand_illegal hv, exec_cmd hv]
  all_goals rfl

/-- The window does what the instruction decoded from the write does. -/
theorem exec_write (wa : BitVec 4) (wd : Word) (s : State) :
    exec (decodeAccess ⟨true, wa, wd⟩) s = windowWrite wa wd s := by
  obtain ⟨j, rfl⟩ | ⟨j, rfl⟩ | rfl | rfl | ⟨j, rfl⟩ := wa_cases wa
  · rw [decodeAccess_key, windowWrite_key j (by bv_omega)]; rfl
  · rw [decodeAccess_blk, windowWrite_blk j (by bv_omega)]; rfl
  · exact (windowWrite_ctrl wd s).symm
  · exact (windowWrite_badAddr (by decide) wd s).symm
  · rw [decodeAccess_rsv, windowWrite_badAddr (by bv_omega)]; rfl

/-- Settles O27: one case for each kind of word address; for `CTRL` one for each command. -/
theorem hostWritesAreMemWrite : Obligations.HostWritesAreMemWrite := by
  refine fun wa wd s => ⟨(exec_write wa wd s).trans (memWrite_wordAddress wa wd s).symm,
    (memWrite_wordAddress wa wd s).trans ?_, fun _ _ h => memWrite_refused h wd s⟩
  by_cases hkey : wa.toNat < 8
  · rw [windowWrite_key ⟨wa.toNat, hkey⟩ rfl, whenIdle_next]
    simp [show ¬13 ≤ wa.toNat by omega, show wa.toNat ≠ 12 by omega, hkey, writeKey]
  by_cases hblk : wa.toNat < 12
  · rw [windowWrite_blk (blockIndex wa) (by simp only [blockIndex]; omega), whenIdle_next]
    simp [show ¬13 ≤ wa.toNat by omega, show wa.toNat ≠ 12 by omega, hkey, hblk, writeBlk]
  by_cases hbad : 13 ≤ wa.toNat
  · rw [windowWrite_badAddr hbad, raise_eq_dropped, if_pos hbad]
    rfl
  obtain rfl : wa = 12#4 := BitVec.eq_of_toNat_eq (by bv_omega)
  obtain rfl | rfl | rfl | rfl | rfl | hv := command_cases wd
  · rfl
  · exact whenIdle_next s (startEnc s)
  · exact whenIdle_next s (startDec s)
  · rfl
  · rfl
  · rw [windowWrite_illegal hv, raise_eq_dropped, if_neg hbad, if_pos ⟨rfl, hv⟩]
    rfl

end Sys2Proof.Machine
end

section
/-! Bytes and words (20_memory.md R50 to R53): what one word and its four bytes say of each other, the two conversions by
index, and that they undo each other. -/

namespace Sys2Proof.Machine

/-! ## One word and its four bytes -/

/-- R50 as a sum: the first byte is least significant. -/
theorem wordOfBytes_toNat (b0 b1 b2 b3 : Byte) :
    (wordOfBytes b0 b1 b2 b3).toNat =
      b0.toNat + b1.toNat * 2 ^ 8 + b2.toNat * 2 ^ 16 + b3.toNat * 2 ^ 24 := by
  have h0 := b0.isLt
  have h1 := b1.isLt
  have h2 := b2.isLt
  simp only [wordOfBytes, BitVec.toNat_append]
  rw [← Nat.shiftLeft_add_eq_or_of_lt h0, ← Nat.shiftLeft_add_eq_or_of_lt h1, ← Nat.shiftLeft_add_eq_or_of_lt h2]
  simp only [Nat.shiftLeft_eq]
  omega

theorem byteOf_toNat (w : Word) (k : Nat) : (byteOf w k).toNat = (w.toNat >>> (8 * k)) % 2 ^ 8 :=
  BitVec.extractLsb'_toNat _ _ _

@[simp] theorem byteOf_zero (k : Nat) : byteOf 0#32 k = 0#8 := by
  apply BitVec.eq_of_toNat_eq
  simp [byteOf_toNat]

/-- Byte `k` of a word made of four bytes is the byte put there. -/
theorem byteOf_wordOfBytes (b0 b1 b2 b3 : Byte) :
    byteOf (wordOfBytes b0 b1 b2 b3) 0 = b0 ∧ byteOf (wordOfBytes b0 b1 b2 b3) 1 = b1 ∧
    byteOf (wordOfBytes b0 b1 b2 b3) 2 = b2 ∧ byteOf (wordOfBytes b0 b1 b2 b3) 3 = b3 := by
  have h0 := b0.isLt
  have h1 := b1.isLt
  have h2 := b2.isLt
  have h3 := b3.isLt
  refine ⟨?_, ?_, ?_, ?_⟩ <;> apply BitVec.eq_of_toNat_eq <;>
    rw [byteOf_toNat, wordOfBytes_toNat, Nat.shiftRight_eq_div_pow] <;> omega

/-- A word is made of its four bytes. -/
theorem wordOfBytes_byteOf (w : Word) : wordOfBytes (byteOf w 0) (byteOf w 1) (byteOf w 2) (byteOf w 3) = w := by
  have hw := w.isLt
  apply BitVec.eq_of_toNat_eq
  simp only [wordOfBytes_toNat, byteOf_toNat, Nat.shiftRight_eq_div_pow]
  omega

/-! ## The lengths -/

/-- Where `bytesToWords` stops: fewer than four bytes are left. -/
theorem length_lt_four {b : List Byte}
    (hshort : ∀ (b0 b1 b2 b3 : Byte) (rest : List Byte), b = b0 :: b1 :: b2 :: b3 :: rest → False) : b.length < 4 := by
  match b, hshort with
  | [], _ | [_], _ | [_, _], _ | [_, _, _], _ => simp
  | b0 :: b1 :: b2 :: b3 :: rest, hshort => exact (hshort b0 b1 b2 b3 rest rfl).elim

/-- Bytes left over make no word. -/
theorem length_bytesToWords (b : List Byte) : (bytesToWords b).length = b.length / 4 := by
  fun_induction bytesToWords b with
  | case1 b0 b1 b2 b3 rest ih => simp only [List.length_cons, ih]; omega
  | case2 b hshort => exact (Nat.div_eq_of_lt (length_lt_four hshort)).symm

theorem length_wordsToBytes (w : List Word) : (wordsToBytes w).length = 4 * w.length := by
  induction w with
  | nil => rfl
  | cons v rest ih => simp only [wordsToBytes, List.length_cons, ih]; omega

/-! ## The index formulas (R52) -/

/-- Word `j` is made of bytes `4j` to `4j+3`. -/
theorem getD_bytesToWords (b : List Byte) (j : Nat) (hj : 4 * j + 4 ≤ b.length) :
    (bytesToWords b).getD j 0 =
      wordOfBytes (b.getD (4 * j) 0) (b.getD (4 * j + 1) 0) (b.getD (4 * j + 2) 0) (b.getD (4 * j + 3) 0) := by
  fun_induction bytesToWords b generalizing j with
  | case1 b0 b1 b2 b3 rest ih =>
    cases j with
    | zero => rfl
    | succ j => exact ih j (by simp only [List.length_cons] at hj; omega)
  | case2 b hshort =>
    have := length_lt_four hshort
    omega

/-- Byte `k` is byte `k mod 4` of word `k div 4`; past the end both sides are 0. -/
theorem getD_wordsToBytes (w : List Word) (k : Nat) :
    (wordsToBytes w).getD k 0 = byteOf (w.getD (k / 4) 0) (k % 4) := by
  induction w generalizing k with
  | nil => simp [wordsToBytes]
  | cons v rest ih =>
    match k with
    | 0 | 1 | 2 | 3 => rfl
    | k + 4 =>
      calc (wordsToBytes rest).getD k 0
          = byteOf (rest.getD (k / 4) 0) (k % 4) := ih k
        _ = byteOf ((v :: rest).getD ((k + 4) / 4) 0) ((k + 4) % 4) := by simp

/-- Settles O47: the index formulas, read as numbers byte by byte. -/
theorem bytesAndWordsByIndex : Obligations.BytesAndWordsByIndex := by
  refine ⟨fun b n j hlen hj => ⟨?_, ?_⟩, fun w k _ => ⟨length_wordsToBytes w, ?_⟩⟩
  · rw [length_bytesToWords, hlen, Nat.mul_div_cancel_left n (by decide)]
  · rw [getD_bytesToWords b j (by omega), wordOfBytes_toNat]
  · rw [getD_wordsToBytes, byteOf_toNat]

/-! ## The round trip (R53) -/

/-- With no bytes left over, nothing is lost on the way to words. -/
theorem wordsToBytes_bytesToWords (b : List Byte) (hlen : b.length % 4 = 0) : wordsToBytes (bytesToWords b) = b := by
  fun_induction bytesToWords b with
  | case1 b0 b1 b2 b3 rest ih =>
    obtain ⟨h0, h1, h2, h3⟩ := byteOf_wordOfBytes b0 b1 b2 b3
    rw [wordsToBytes, h0, h1, h2, h3, ih ((Nat.add_mod_right rest.length 4).symm.trans hlen)]
  | case2 b hshort =>
    have := length_lt_four hshort
    exact (List.eq_nil_of_length_eq_zero (by omega)).symm

theorem bytesToWords_wordsToBytes (w : List Word) : bytesToWords (wordsToBytes w) = w := by
  induction w with
  | nil => rfl
  | cons v rest ih => rw [wordsToBytes, bytesToWords, wordOfBytes_byteOf, ih]

/-- Settles O46: each conversion undoes the other, four bytes and one word at a time. -/
theorem bytesAndWordsRoundTrip : Obligations.BytesAndWordsRoundTrip :=
  ⟨wordsToBytes_bytesToWords, bytesToWords_wordsToBytes⟩

end Sys2Proof.Machine
end

section
/-! The opcode table of 30_encoding.md R88 and R89 as data, and the decoder: which rows can fit one word, that a row
outside `CTRL` writes looks at `we` and `wa` only, and so that the first row that fits is that of the decoded
instruction. -/

namespace Sys2Proof

/-! ## Which rows can fit one word (R88) -/

/-- Two rows that fit one word ask for the same bits wherever both masks look. -/
theorem BusRow.agree_of_selects {r r' : BusRow} {t : BitVec 37} (h : r.selects t = true) (h' : r'.selects t = true) :
    r.bits &&& r'.mask = r'.bits &&& r.mask := by
  simp only [BusRow.selects, beq_iff_eq] at h h'
  rw [← h, ← h', BitVec.and_assoc, BitVec.and_comm r.mask, BitVec.and_assoc]

/-- Of the 225 pairs of rows only row 10 with rows 5 to 10, and a row with itself, ask for bits that agree. -/
theorem overlap_of_agree :
    ∀ r ∈ busTable, ∀ r' ∈ busTable, r.bits &&& r'.mask = r'.bits &&& r.mask →
      r = r' ∨ (r.mnemonic = "CMD" ∧ r' ∈ busCommandRows) ∨ (r'.mnemonic = "CMD" ∧ r ∈ busCommandRows) := by
  decide

theorem overlap_of_selects {r r' : BusRow} {t : BitVec 37} (hr : r ∈ busTable) (hr' : r' ∈ busTable)
    (h : r.selects t = true) (h' : r'.selects t = true) :
    r = r' ∨ (r.mnemonic = "CMD" ∧ r' ∈ busCommandRows) ∨ (r'.mnemonic = "CMD" ∧ r ∈ busCommandRows) :=
  overlap_of_agree r hr r' hr' (BusRow.agree_of_selects h h')

/-- Where one row alone fits, the order of the rows does not matter. -/
theorem busRowOf_of_unique {r : BusRow} {t : BitVec 37} (hr : r ∈ busTable) (h : r.selects t = true)
    (hunique : ∀ r' ∈ busTable, r'.selects t = true → r' = r) : busRowOf t = some r.mnemonic := by
  obtain ⟨r', hfind⟩ := Option.isSome_iff_exists.1 ((List.find?_isSome (p := BusRow.selects (t := t))).2 ⟨r, hr, h⟩)
  have hsel := List.find?_some hfind
  obtain rfl := hunique r' (List.mem_of_find?_eq_some hfind) hsel
  rw [busRowOf, hfind, Option.map_some]

/-! ## The rows outside `CTRL` writes -/

/-- The mask of such a row is zero on `wd`. -/
theorem mask_of_not_command : ∀ r ∈ busTable, r.mnemonic ∉ busCommandRows.map (·.mnemonic) →
    r.mask = r.mask.extractLsb' 32 5 ++ 0#32 := by decide

theorem selects_ignores_data {r : BusRow} (hr : r ∈ busTable) (hnot : r.mnemonic ∉ busCommandRows.map (·.mnemonic))
    (we : Bool) (wa : BitVec 4) (wd wd' : Word) :
    r.selects (Access.toBus ⟨we, wa, wd⟩) = r.selects (Access.toBus ⟨we, wa, wd'⟩) := by
  simp only [BusRow.selects, Access.toBus]
  rw [mask_of_not_command r hr hnot, BitVec.and_append, BitVec.and_append, BitVec.and_zero, BitVec.and_zero]

/-- An instruction that is no `CTRL` write has its row selected by its `we` and `wa`, whatever the data. -/
theorem busRowOf_of_tableRow {i : Instr} {we : Bool} {wa : BitVec 4} {wd' : Word}
    (hcode : encode i = .bus (Access.toBus ⟨we, wa, wd'⟩)) (hrow : Laws.TableRow.Statement i)
    (wd : Word) (hnot : i.mnemonic ∉ busCommandRows.map (·.mnemonic) := by simp [Instr.mnemonic, busCommandRows]) :
    busRowOf (Access.toBus ⟨we, wa, wd⟩) = some i.mnemonic := by
  rw [Laws.TableRow.Statement, hcode] at hrow
  obtain ⟨r, hr, hname, hsel'⟩ := hrow
  rw [← hname] at hnot ⊢
  have hsel := (selects_ignores_data hr hnot we wa wd wd').trans hsel'
  refine busRowOf_of_unique hr hsel fun r' hr' h' => ?_
  obtain heq | ⟨-, hcmd⟩ | ⟨hcmd, -⟩ := overlap_of_selects hr' hr h' hsel
  · exact heq
  · exact absurd (List.mem_map_of_mem hcmd) hnot
  · exact absurd (by rw [hcmd]; decide) hnot

/-! ## `CTRL` writes -/

/-- Row 10 of R88. -/
def reservedCommandRow : BusRow := ⟨"CMD", 0x1F00000000, 0x1C00000000⟩

/-- The other rows that can fit a `CTRL` write fit one word each, with data at most 4. -/
theorem eq_reserved_or_named : ∀ r ∈ busTable, r.bits &&& reservedCommandRow.mask = reservedCommandRow.bits &&& r.mask →
    r = reservedCommandRow ∨ r.mask = BitVec.allOnes 37 ∧ (busWd r.bits).toNat ≤ 4 := by decide

/-- "any other" data of a `CTRL` write reaches row 10. -/
theorem busRowOf_illegalCommand {v : Word} (hv : 4 < v.toNat) :
    busRowOf (Access.toBus ⟨true, 12#4, v⟩) = some "CMD" := by
  have hsel : reservedCommandRow.selects (Access.toBus ⟨true, 12#4, v⟩) = true :=
    Laws.TableRow.selects_high "CMD" true 12#4 v 0b11111#5 0b11100#5 (by decide)
  refine busRowOf_of_unique (r := reservedCommandRow) (by decide) hsel fun r hr h => ?_
  obtain heq | ⟨hmask, hle⟩ := eq_reserved_or_named r hr (BusRow.agree_of_selects h hsel)
  · exact heq
  · have hbits : Access.toBus ⟨true, 12#4, v⟩ = r.bits := by
      simpa only [BusRow.selects, hmask, BitVec.and_allOnes, beq_iff_eq] using h
    have hwd : busWd r.bits = v := hbits ▸ congrArg Access.wd (Access.ofBus_toBus ⟨true, 12#4, v⟩)
    rw [hwd] at hle
    omega

theorem busRowOf_command (v : Word) :
    busRowOf (Access.toBus ⟨true, 12#4, v⟩) = some (decodeCommand v).mnemonic := by
  obtain rfl | rfl | rfl | rfl | rfl | hv := Machine.command_cases v
  case inr.inr.inr.inr.inr => rw [busRowOf_illegalCommand hv, Machine.decodeCommand_illegal hv]; rfl
  all_goals decide

/-! ## Every word and every selector -/

/-- The fields of a transaction word make it up again (30_encoding.md R81). -/
@[simp] theorem Access.toBus_ofBus (t : BitVec 37) : (Access.ofBus t).toBus = t := by
  have hwe : BitVec.ofBool (busWe t) = t.extractLsb' 36 1 := by
    ext i hi
    obtain rfl : i = 0 := by omega
    simp [busWe]
  simp only [Access.toBus, Access.ofBus, busWa, busWd, hwe]
  rw [BitVec.extractLsb'_append_extractLsb'_eq_extractLsb' (by decide)]
  exact BitVec.extractLsb'_append_extractLsb'

theorem busRowOf_toBus (a : Access) : busRowOf a.toBus = some (decodeAccess a).mnemonic := by
  obtain ⟨we, wa, wd⟩ := a
  -- for each kind of word address the read, then the write
  obtain ⟨j, rfl⟩ | ⟨j, rfl⟩ | rfl | rfl | ⟨j, rfl⟩ := wa_cases wa <;> cases we
  · rw [decodeAccess_key]; exact busRowOf_of_tableRow rfl (Laws.TableRow.rdkey j) wd
  · rw [decodeAccess_key]; exact busRowOf_of_tableRow rfl (Laws.TableRow.ldkey j wd) wd
  · rw [decodeAccess_blk]; exact busRowOf_of_tableRow rfl (Laws.TableRow.rdblk j) wd
  · rw [decodeAccess_blk]; exact busRowOf_of_tableRow rfl (Laws.TableRow.ldblk j wd) wd
  · exact busRowOf_of_tableRow rfl Laws.TableRow.rdctrl wd
  · exact busRowOf_command wd
  · exact busRowOf_of_tableRow rfl Laws.TableRow.rdstat wd
  · exact busRowOf_of_tableRow rfl (Laws.TableRow.wrstat wd) wd
  · rw [decodeAccess_rsv]; exact busRowOf_of_tableRow rfl (Laws.TableRow.rdrsv j) wd
  · rw [decodeAccess_rsv]; exact busRowOf_of_tableRow rfl (Laws.TableRow.wrrsv j wd) wd

theorem ctlRowOf_eq (s : BitVec 2) : ctlRowOf s = some (decodeCtl s).mnemonic := by
  revert s; decide

/-- Settles O3: the words through their accesses, the pairs of rows through the bits on which they must agree. -/
theorem opcodeTableSelectsTheDecodedRow : Obligations.OpcodeTableSelectsTheDecodedRow := by
  refine ⟨fun t => ?_, fun t r r' hr hr' h h' => overlap_of_selects hr hr' h h', ctlRowOf_eq⟩
  rw [← Access.toBus_ofBus t, decodeBus_toBus]
  exact busRowOf_toBus _

end Sys2Proof
end

section
/-! Laws of the wrapping word arithmetic (40_confusion_layer.md R110 to R112). -/

namespace Sys2Proof.Machine

theorem add32_toNat (a b : Word) : (add32 a b).toNat = (a.toNat + b.toNat) % 2 ^ 32 := BitVec.toNat_ofNat _ _

/-- R111: the borrow adds `2^32`. -/
theorem sub32_toNat (a b : Word) :
    (sub32 a b).toNat = if b.toNat ≤ a.toNat then a.toNat - b.toNat else a.toNat + 2 ^ 32 - b.toNat := by
  have ha := a.isLt
  have hb := b.isLt
  unfold sub32
  split <;> rw [BitVec.toNat_ofNat] <;> omega

@[simp] theorem sub32_add32 (a b : Word) : sub32 (add32 a b) b = a := by
  rw [sub32_eq, add32_eq, BitVec.add_sub_cancel]

@[simp] theorem add32_sub32 (a b : Word) : add32 (sub32 a b) b = a := by
  rw [sub32_eq, add32_eq, BitVec.sub_add_cancel]

theorem xor32_assoc (a b c : Word) : xor32 (xor32 a b) c = xor32 a (xor32 b c) := BitVec.xor_assoc a b c

@[simp] theorem xor32_self (a : Word) : xor32 a a = 0 := BitVec.xor_self

@[simp] theorem xor32_zero (a : Word) : xor32 a 0 = a := BitVec.xor_zero

/-- XOR is self-inverse (R112). -/
@[simp] theorem xor32_xor32 (a b : Word) : xor32 (xor32 a b) b = a := by
  rw [xor32_assoc, xor32_self, xor32_zero]

theorem xor32_getLsbD (a b : Word) (n : Nat) : (xor32 a b).getLsbD n = (a.getLsbD n != b.getLsbD n) :=
  BitVec.getLsbD_xor

/-- Settles O35: the sum and the difference through the library's modular words, XOR bit by bit. -/
theorem wordArithmeticWraps : Obligations.WordArithmeticWraps := by
  intro a b c
  have add_comm : add32 a b = add32 b a := by simp only [add32_eq, BitVec.add_comm]
  have add_assoc : add32 (add32 a b) c = add32 a (add32 b c) := by simp only [add32_eq, BitVec.add_assoc]
  have add_zero : add32 a 0 = a := by rw [add32_eq]; exact BitVec.add_zero a
  have sub_zero : sub32 a 0 = a := by rw [sub32_eq]; exact BitVec.sub_zero a
  have sub_self : sub32 a a = 0 := by rw [sub32_eq]; exact BitVec.sub_self a
  exact ⟨add32_toNat a b, add_comm, add_assoc, add_zero, sub32_toNat a b, sub_zero, sub_self,
    sub32_add32 a b, add32_sub32 a b, fun n _ => xor32_getLsbD a b n, BitVec.xor_comm a b, xor32_assoc a b c,
    xor32_zero a, xor32_self a, xor32_xor32 a b⟩

end Sys2Proof.Machine
end

section
/-! Laws of the rotations (40_confusion_layer.md R113 and R114), each from where the bits of a left rotation come from. -/

namespace Sys2Proof.Machine

/-- Bit `p` of the operand goes to position `(p + n) mod 32` (R113). -/
theorem rotl32_getLsbD_add (x : Word) (n : Nat) {p : Nat} (h : p < 32) :
    (rotl32 x n).getLsbD ((p + n) % 32) = x.getLsbD p := by
  rw [rotl32_getLsbD x n (Nat.mod_lt _ (by decide))]
  congr 1
  omega

/-- The amount is reduced modulo 32. -/
theorem rotl32_mod (x : Word) (n : Nat) : rotl32 x (n % 32) = rotl32 x n := by
  simp only [rotl32, Nat.mod_mod]

@[simp] theorem rotl32_zero (x : Word) : rotl32 x 0 = x := rfl

/-- Amounts that are multiples of 32 leave every bit in its place. -/
theorem rotl32_of_mod_eq_zero (x : Word) {n : Nat} (h : n % 32 = 0) : rotl32 x n = x := if_pos h

theorem rotl32_rotl32 (x : Word) (n m : Nat) : rotl32 (rotl32 x n) m = rotl32 x (n + m) := by
  refine word_ext fun p hp => ?_
  rw [rotl32_getLsbD _ _ hp, rotl32_getLsbD _ _ (Nat.mod_lt _ (by decide)), rotl32_getLsbD _ _ hp]
  congr 1
  omega

theorem rotl32_xor32 (x y : Word) (n : Nat) : rotl32 (xor32 x y) n = xor32 (rotl32 x n) (rotl32 y n) := by
  refine word_ext fun p hp => ?_
  simp only [xor32_getLsbD, rotl32_getLsbD _ _ hp]

/-- A right rotation is the left rotation by the rest of the word's width (R114). -/
theorem rotr32_eq_rotl32 (x : Word) (n : Nat) : rotr32 x n = rotl32 x ((32 - n % 32) % 32) := by
  refine word_ext fun p hp => ?_
  rw [rotr32_getLsbD _ _ hp, rotl32_getLsbD _ _ hp]
  congr 1
  omega

@[simp] theorem rotr32_rotl32 (x : Word) (n : Nat) : rotr32 (rotl32 x n) n = x := by
  rw [rotr32_eq_rotl32, rotl32_rotl32]
  exact rotl32_of_mod_eq_zero x (by omega)

@[simp] theorem rotl32_rotr32 (x : Word) (n : Nat) : rotl32 (rotr32 x n) n = x := by
  rw [rotr32_eq_rotl32, rotl32_rotl32]
  exact rotl32_of_mod_eq_zero x (by omega)

/-- Adding an amount modulo 32 permutes the 32 bit positions. -/
theorem map_add_mod_range_perm (k : Nat) : ((List.range 32).map fun p => (p + k) % 32).Perm (List.range 32) := by
  have hrot : ((List.range 32).map fun p => (p + k) % 32) = (List.range 32).rotate k :=
    List.ext_getElem (by simp) fun i _ _ => by simp [List.getElem_rotate]
  rw [hrot]
  exact List.rotate_perm _ k

/-- No bit is lost and none is created (R113). -/
theorem rotl32_countP (x : Word) (n : Nat) :
    (List.range 32).countP (fun p => (rotl32 x n).getLsbD p) = (List.range 32).countP fun p => x.getLsbD p :=
  calc (List.range 32).countP (fun p => (rotl32 x n).getLsbD p)
      = ((List.range 32).map fun p => (p + n) % 32).countP fun p => (rotl32 x n).getLsbD p :=
        ((map_add_mod_range_perm n).countP_eq _).symm
    _ = (List.range 32).countP fun p => (rotl32 x n).getLsbD ((p + n) % 32) := List.countP_map
    _ = (List.range 32).countP fun p => x.getLsbD p := List.countP_congr fun p hp => by
        rw [rotl32_getLsbD_add x n (List.mem_range.1 hp)]

/-- Settles O36: the laws above. Rotation does not distribute over `ADD32`: two words with only bit 31 set add up to 0,
their left rotations by 1 to 2. -/
theorem rotationsMoveEveryBit : Obligations.RotationsMoveEveryBit := by
  refine ⟨fun x y n m => ?_, 0x80000000, 0x80000000, 1, by decide⟩
  exact ⟨fun _ => rotl32_getLsbD_add x n, fun _ => rotr32_getLsbD x n, (rotl32_mod x n).symm, rotl32_zero x,
    rotl32_rotl32 x n m, rotl32_xor32 x y n, rotr32_eq_rotl32 x n, rotr32_rotl32 x n, rotl32_rotr32 x n,
    rotl32_countP x n⟩

end Sys2Proof.Machine
end

section
/-! The confusion layer (40_confusion_layer.md R119 to R121): its steps are undone one by one, the last first. -/

namespace Sys2Proof.Machine

@[simp] theorem deconfuse_confuse (p : Config.Params) (x : Word) : deconfuse p (confuse p x) = x := by
  simp only [deconfuse, confuse, rotr32_rotl32, sub32_add32, xor32_xor32]

@[simp] theorem confuse_deconfuse (p : Config.Params) (x : Word) : confuse p (deconfuse p x) = x := by
  simp only [deconfuse, confuse, xor32_xor32, add32_sub32, rotl32_rotr32]

/-- Settles O37: nothing about the constants is used. -/
theorem confusionIsABijection : Obligations.ConfusionIsABijection := fun p x =>
  ⟨deconfuse_confuse p x, confuse_deconfuse p x⟩

end Sys2Proof.Machine
end

section
/-! The steering values (30_encoding.md R86, 41_key_schedule.md R131, 42_round_functions.md R142), read as numbers: with
`r < 16`, `i < 4` and the constants of `params` no reduction acts but the one of `kidx`. -/

namespace Sys2Proof.Machine

@[simp] theorem kidx_val (r : Fin 16) (i : Fin 4) : (kidx r i).val = (i.val + r.val) % 8 := rfl

/-- At `i = 0` the round number alone runs through the key words. -/
theorem kidx_castLE_zero (j : Fin 8) : kidx (j.castLE (by decide)) 0 = j :=
  Fin.ext ((congrArg (· % 8) (Nat.zero_add j.val)).trans (Nat.mod_eq_of_lt j.isLt))

theorem kc_toNat (p : Config.Params) (r : Fin 16) (i : Fin 4) :
    (kc p r i).toNat = (i.val * p.ksMulI + r.val * p.ksMulR) % 2 ^ 32 := BitVec.toNat_ofNat _ _

/-- The largest constant is `3*73 + 15*91`. -/
theorem kc_sum_le (r : Fin 16) (i : Fin 4) : i.val * 73 + r.val * 91 ≤ 1584 := by omega

theorem kc_params_toNat (r : Fin 16) (i : Fin 4) : (kc params r i).toNat = i.val * 73 + r.val * 91 :=
  (kc_toNat params r i).trans (Nat.mod_eq_of_lt ((kc_sum_le r i).trans_lt (by decide)))

@[simp] theorem ksh_eq (r : Fin 16) (i : Fin 4) : ksh r i = r.val + i.val :=
  Nat.mod_eq_of_lt (by omega)

@[simp] theorem rotA_params (r : Fin 16) : rotA params r = r.val + 3 :=
  Nat.mod_eq_of_lt (show r.val + 3 < 32 by omega)

@[simp] theorem rotB_params (r : Fin 16) : rotB params r = r.val + 5 :=
  Nat.mod_eq_of_lt (show r.val + 5 < 32 by omega)

/-- Settles O42: the values above, and the bounds they give for `r ≤ 15` and `i ≤ 3`. -/
theorem steeringValuesStayInRange : Obligations.SteeringValuesStayInRange := by
  intro p r i
  have kc_le : (kc params r i).toNat ≤ 1584 := (kc_params_toNat r i).trans_le (kc_sum_le r i)
  have ksh_le : ksh r i ≤ 18 := by rw [ksh_eq]; omega
  have ksh_zero : ksh r i = 0 ↔ r = 0 ∧ i = 0 := by
    rw [ksh_eq, Nat.add_eq_zero_iff, Fin.val_eq_zero_iff, Fin.val_eq_zero_iff]
  exact ⟨kidx_val r i, kc_toNat p r i, kc_params_toNat r i, kc_le, ksh_eq r i, ksh_le, ksh_zero,
    rotA_params r, rotB_params r, fun j => ⟨j.castLE (by decide), 0, kidx_castLE_zero j⟩⟩

end Sys2Proof.Machine
end

section
/-! The round functions (42_round_functions.md R140, R141 and R143): each step of one is undone by the step of the other
under the same subkey and the same rotation amounts. -/

namespace Sys2Proof.Machine

@[simp] theorem irf_rf (p : Config.Params) (x k : Word) (r : Fin 16) : irf p (rf p x k r) k r = x := by
  simp only [irf, rf, rotr32_rotl32, xor32_xor32, deconfuse_confuse, sub32_add32]

@[simp] theorem rf_irf (p : Config.Params) (y k : Word) (r : Fin 16) : rf p (irf p y k r) k r = y := by
  simp only [rf, irf, add32_sub32, confuse_deconfuse, rotl32_rotr32, xor32_xor32]

/-- Settles O38: nothing about the constants is used for the inverses. `RF(0, 0, 0) = 0xF0F0F0F0` (R144 (a)) is undone to
`0x00BFFFFF` under the subkey 1 and to `0x99999999` in round 1, not to 0. -/
theorem roundFunctionIsABijection : Obligations.RoundFunctionIsABijection := by
  have other_subkey : irf params (rf params 0 0 0) 1 0 = 0x00BFFFFF := by decide
  have other_round : irf params (rf params 0 0 0) 0 1 = 0x99999999 := by decide
  refine ⟨fun p x k r => ⟨irf_rf p x k r, rf_irf p x k r⟩, ⟨0, 0, 1, 0, ?_⟩, ⟨0, 0, 0, 1, ?_⟩⟩
  · rw [other_subkey]; decide
  · rw [other_round]; decide

end Sys2Proof.Machine
end

section
/-! The mix layers (43_mix_layers.md R150 to R153). Every update XORs one rotated word into another, so the layers undo
each other by the self-inverse XOR, and distribute over XOR because each update does. -/

namespace Sys2Proof.Machine

/-! ## Each layer undoes the other, for every four amounts -/

@[simp] theorem imix_mix (p : Config.Params) (s : Block) : imix p (mix p s) = s := by
  simp only [imix, mix, xor32_xor32]

@[simp] theorem mix_imix (p : Config.Params) (t : Block) : mix p (imix p t) = t := by
  simp only [mix, imix, xor32_xor32]

/-- Settles O39: nothing about the rotation amounts is used. -/
theorem mixLayerIsABijection : Obligations.MixLayerIsABijection := fun p s => ⟨imix_mix p s, mix_imix p s⟩

/-! ## Closed forms in the input words, for every four amounts -/

/-- Only the fourth update reads a word already written: its rotation composes with the one of the first. -/
theorem mix_closed (p : Config.Params) (s : Block) : mix p s =
    ⟨xor32 s.w0 (rotl32 s.w1 p.mixRot0), xor32 s.w1 (rotl32 s.w2 p.mixRot1), xor32 s.w2 (rotl32 s.w3 p.mixRot2),
      xor32 (xor32 s.w3 (rotl32 s.w0 p.mixRot3)) (rotl32 s.w1 (p.mixRot0 + p.mixRot3))⟩ := by
  simp only [mix, rotl32_xor32, rotl32_rotl32, xor32_assoc]

/-- Every update after the first reads the word before it: the rotations add up along the chain. -/
theorem imix_closed (p : Config.Params) (t : Block) : imix p t =
    ⟨xor32 (xor32 (xor32 (xor32 t.w0 (rotl32 t.w1 p.mixRot0)) (rotl32 t.w2 (p.mixRot1 + p.mixRot0)))
        (rotl32 t.w3 (p.mixRot2 + (p.mixRot1 + p.mixRot0))))
        (rotl32 t.w0 (p.mixRot3 + (p.mixRot2 + (p.mixRot1 + p.mixRot0)))),
      xor32 (xor32 (xor32 t.w1 (rotl32 t.w2 p.mixRot1)) (rotl32 t.w3 (p.mixRot2 + p.mixRot1)))
        (rotl32 t.w0 (p.mixRot3 + (p.mixRot2 + p.mixRot1))),
      xor32 (xor32 t.w2 (rotl32 t.w3 p.mixRot2)) (rotl32 t.w0 (p.mixRot3 + p.mixRot2)),
      xor32 t.w3 (rotl32 t.w0 p.mixRot3)⟩ := by
  simp only [imix, rotl32_xor32, rotl32_rotl32, xor32_assoc, Nat.add_assoc]

/-- With the constants of the spec the sums are 33, 56, 51 and 40, which the rotation reads modulo 32 (R113). -/
theorem imix_params_closed (t : Block) : imix params t =
    ⟨t.w0 ^^^ rotl32 t.w1 5 ^^^ rotl32 t.w2 16 ^^^ rotl32 t.w3 1 ^^^ rotl32 t.w0 24,
      t.w1 ^^^ rotl32 t.w2 11 ^^^ rotl32 t.w3 28 ^^^ rotl32 t.w0 19,
      t.w2 ^^^ rotl32 t.w3 17 ^^^ rotl32 t.w0 8,
      t.w3 ^^^ rotl32 t.w0 23⟩ := by
  have reads_33 : rotl32 t.w3 33 = rotl32 t.w3 1 := (rotl32_mod t.w3 33).symm
  have reads_56 : rotl32 t.w0 56 = rotl32 t.w0 24 := (rotl32_mod t.w0 56).symm
  have reads_51 : rotl32 t.w0 51 = rotl32 t.w0 19 := (rotl32_mod t.w0 51).symm
  have reads_40 : rotl32 t.w0 40 = rotl32 t.w0 8 := (rotl32_mod t.w0 40).symm
  rw [← reads_33, ← reads_56, ← reads_51, ← reads_40]
  exact imix_closed params t

/-! ## Linearity over XOR -/

/-- One update of either layer distributes over XOR. -/
theorem xor32_rotl32_xor (x x' y y' : Word) (n : Nat) :
    xor32 (x ^^^ x') (rotl32 (y ^^^ y') n) = xor32 x (rotl32 y n) ^^^ xor32 x' (rotl32 y' n) := by
  have rot : rotl32 (y ^^^ y') n = rotl32 y n ^^^ rotl32 y' n := rotl32_xor32 y y' n
  simp only [xor32_eq, rot]
  ac_rfl

theorem mix_xor (p : Config.Params) (s t : Block) :
    mix p (Block.ofFn fun i => s.get i ^^^ t.get i) = Block.ofFn fun i => (mix p s).get i ^^^ (mix p t).get i := by
  simp only [mix, Block.ofFn, Block.get, xor32_rotl32_xor]

theorem imix_xor (p : Config.Params) (s t : Block) :
    imix p (Block.ofFn fun i => s.get i ^^^ t.get i) = Block.ofFn fun i => (imix p s).get i ^^^ (imix p t).get i := by
  simp only [imix, Block.ofFn, Block.get, xor32_rotl32_xor]

/-- Settles O40: the closed forms and the linearity above, which hold for every four amounts, at the constants of the
spec. -/
theorem mixLayerHasItsClosedForms : Obligations.MixLayerHasItsClosedForms := by
  refine ⟨mix_closed params, imix_params_closed, fun s t i => ⟨?_, ?_⟩, by decide⟩
  · rw [mix_xor, Block.get_ofFn]
  · rw [imix_xor, Block.get_ofFn]

end Sys2Proof.Machine
end

section
/-! One round step (44_round_controller.md R165, R166): the selector names it, and whether it is the last one decides what
becomes of `BUSY`, `DONE` and `RND`. -/

namespace Sys2Proof.Machine

/-- Settles O18: the last round and the others; the rule's example by evaluation. -/
theorem encroundStepRunsOneRound : Obligations.EncroundStepRunsOneRound := by
  refine ⟨rfl, fun s hbusy hdir => ⟨ctlInstr_enc hbusy hdir, ?_, by decide⟩⟩
  rw [exec_encround hbusy hdir]
  split
  next hlast => rw [encStep_last hlast]; rfl
  next hmid => rw [encStep_mid hmid]; rfl

/-- Settles O19: the last round and the others; the rule's example by evaluation. -/
theorem decroundStepRunsOneRound : Obligations.DecroundStepRunsOneRound := by
  refine ⟨rfl, fun s hbusy hdir => ⟨ctlInstr_dec hbusy hdir, ?_, by decide⟩⟩
  rw [exec_decround hbusy hdir]
  split
  next hlast => rw [decStep_last hlast]; rfl
  next hmid => rw [decStep_mid hmid]; rfl

end Sys2Proof.Machine
end

section
/-! Runs whose agenda lists the turns to take: a run of `step` is the turns in order (20_memory.md R63). -/

namespace Sys2Proof.Machine

theorem runTurns_cons {u : Turn} {s t : State} (h : runTurn u s = .next t) (ts : List Turn) :
    runTurns (u :: ts) s = runTurns ts t := by
  simp only [runTurns, h]

theorem runTurns_append {ts : List Turn} {s t : State} (h : runTurns ts s = .next t) (us : List Turn) :
    runTurns (ts ++ us) s = runTurns us t := by
  fun_induction runTurns ts s with
  | case1 s => cases h; rfl
  | case2 u ts s s' hu ih => exact (runTurns_cons hu _).trans (ih h)
  | case3 => cases h
  | case4 => cases h

/-- A wait is no turn of its own, so it is left out. -/
theorem run_of_runTurns {ts : List Turn} (rest : List Turn) {s t : State} (hwait : .wait ∉ ts)
    (h : runTurns ts s = .next t) :
    core.run ts.length { s with agenda := ts ++ rest } = .next { t with agenda := rest } := by
  fun_induction runTurns ts s with
  | case1 s => cases h; rfl
  | case2 u ts s s' hu ih =>
    have hturn := runTurn_withAgenda (ts ++ rest) hu
    have hstep : step { s with agenda := u :: ts ++ rest } = .next { s' with agenda := ts ++ rest } :=
      (step_turn (List.ne_of_not_mem_cons hwait).symm rfl).trans hturn
    exact (run_succ ts.length hstep).trans (ih (List.not_mem_of_not_mem_cons hwait) h)
  | case3 => cases h
  | case4 => cases h

end Sys2Proof.Machine
end

section
/-! An operation of either direction (44_round_controller.md R169, R170): the predicate that holds while it runs, kept by
every access but `SRST` and taken one round on by the controller, and the one that holds when it has ended. -/

namespace Sys2Proof.Machine

/-! ## Host accesses while an operation runs (R169) -/

/-- A dropped write touches the error record only. -/
theorem error_record_of_raise {o : Host.Outcome State Fault Refusal} {e : Cause} {s : State} (h : o = raise e s) :
    ∃ (err : Bool) (ecause : BitVec 3) (rd : Word), o = .next { s with err := err, ecause := ecause, rd := rd } :=
  ⟨_, _, _, h.trans (raise_next e s)⟩

/-- Every access but `SRST` completes; the state differs in `ERR`, `ECAUSE` and the read data only. -/
theorem exec_access_of_busy {a : Access} {s : State} (hbusy : s.busy = true) (hsrst : decodeAccess a ≠ .srst) :
    ∃ (err : Bool) (ecause : BitVec 3) (rd : Word),
      exec (decodeAccess a) s = .next { s with err := err, ecause := ecause, rd := rd } := by
  obtain ⟨hencround, hdecround, hidle⟩ := decodeAccess_ne_ctl a
  have hwf := decodeAccess_wellFormed a
  cases hi : decodeAccess a with
  | ldkey j v => exact error_record_of_raise (whenIdle_busy (writeKey j v s) hbusy)
  | ldblk j v => exact error_record_of_raise (whenIdle_busy (writeBlk j v s) hbusy)
  | enc => exact error_record_of_raise (whenIdle_busy (startEnc s) hbusy)
  | dec => exact error_record_of_raise (whenIdle_busy (startDec s) hbusy)
  | cmd v =>
    rw [hi] at hwf
    exact error_record_of_raise (exec_cmd (of_decide_eq_true hwf) s)
  | wrstat v => exact error_record_of_raise (exec_wrstat v s)
  | wrrsv a0 v => exact error_record_of_raise (exec_wrrsv a0 v s)
  | rdkey | rdblk | nop | clrerr | rdctrl | rdstat | rdrsv => exact ⟨_, _, _, rfl⟩
  | srst => exact absurd hi hsrst
  | encround => exact absurd hi hencround
  | decround => exact absurd hi hdecround
  | idle => exact absurd hi hidle

/-! ## The two directions as one, by `DIR` -/

/-- The block after `n` rounds of the operation that `DIR` names. -/
def opRounds : Bool → Block → Key → Nat → Block
  | false => encRounds params
  | true => decRounds params

/-- `RND` when `n` rounds are done: encryption counts up from 0, decryption down from 15. -/
def roundIndex : Bool → Nat → Fin 16
  | false, n => Fin.ofNat 16 n
  | true, n => Fin.ofNat 16 (Config.nr - 1 - n)

/-- The writes of a round step. -/
def roundStep : Bool → State → State
  | false => encStep
  | true => decStep

/-- What `RND` becomes in a round step that is not the sixteenth. -/
theorem roundIndex_false_succ :
    ∀ n < 15, roundIndex false n ≠ 15 ∧ roundIndex false n + 1 = roundIndex false (n + 1) := by decide

theorem roundIndex_true_succ :
    ∀ n < 15, roundIndex true n ≠ 0 ∧ roundIndex true n - 1 = roundIndex true (n + 1) := by decide

/-- `n` rounds of the operation `dir` on the block `b` under the key `k` are done, and the operation goes on. -/
structure Running (dir : Bool) (b : Block) (k : Key) (n : Nat) (s : State) : Prop where
  st : s.st = opRounds dir b k n
  key : s.key = k
  rnd : s.rnd = roundIndex dir n
  dir : s.dir = dir
  busy : s.busy = true
  done : s.done = false

/-- The operation `dir` on the block `b` under the key `k` has ended with its result. -/
structure Completed (dir : Bool) (b : Block) (k : Key) (s : State) : Prop where
  st : s.st = opRounds dir b k Config.nr
  key : s.key = k
  rnd : s.rnd = 0
  dir : s.dir = dir
  busy : s.busy = false
  done : s.done = true

/-! ## The start -/

/-- `ENC` as a turn (45_host_commands.md R186). -/
theorem running_of_enc {s : State} (hidle : s.busy = false) :
    ∃ t, runTurn (turnOf 0x1C00000001) s = .next t ∧ Running false s.st s.key 0 t :=
  ⟨_, whenIdle_idle (startEnc s) hidle, rfl, rfl, rfl, rfl, rfl, rfl⟩

/-- `DEC` as a turn (R187). -/
theorem running_of_dec {s : State} (hidle : s.busy = false) :
    ∃ t, runTurn (turnOf 0x1C00000002) s = .next t ∧ Running true s.st s.key 0 t :=
  ⟨_, whenIdle_idle (startDec s) hidle, rfl, rfl, rfl, rfl, rfl, rfl⟩

/-! ## Turns while it runs -/

section
variable {dir : Bool} {b : Block} {k : Key} {n : Nat} {s : State}

theorem Running.access (h : Running dir b k n s) {a : Access} (hsrst : decodeAccess a ≠ .srst) :
    ∃ t, runTurn (.access a) s = .next t ∧ Running dir b k n t := by
  obtain ⟨err, ecause, rd, hexec⟩ := exec_access_of_busy h.busy hsrst
  exact ⟨_, hexec, h.st, h.key, h.rnd, h.dir, h.busy, h.done⟩

/-- The controller's turn is the round step of the running direction. -/
theorem Running.runTurn_ctl (h : Running dir b k n s) : runTurn .ctl s = .next { roundStep dir s with rd := 0 } := by
  rw [Machine.runTurn_ctl, if_pos h.busy, h.dir, accept_next]
  cases dir <;> rfl

theorem Running.roundStep_st (h : Running dir b k n s) : (roundStep dir s).st = opRounds dir b k (n + 1) := by
  cases dir with
  | false => exact (encStep_st s).trans (by rw [h.st, h.key, h.rnd]; rfl)
  | true => exact (decStep_st s).trans (by rw [h.st, h.key, h.rnd]; rfl)

/-- A round step that is not the sixteenth. -/
theorem Running.round (h : Running dir b k n s) (hn : n < 15) :
    ∃ t, runTurn .ctl s = .next t ∧ Running dir b k (n + 1) t := by
  refine ⟨_, h.runTurn_ctl, ?_⟩
  have hst := h.roundStep_st
  cases dir with
  | false =>
    obtain ⟨hmid, hsucc⟩ := roundIndex_false_succ n hn
    rw [← h.rnd] at hmid hsucc
    simp only [roundStep, encStep_mid hmid] at hst ⊢
    exact ⟨hst, h.key, hsucc, h.dir, h.busy, h.done⟩
  | true =>
    obtain ⟨hmid, hsucc⟩ := roundIndex_true_succ n hn
    rw [← h.rnd] at hmid hsucc
    simp only [roundStep, decStep_mid hmid] at hst ⊢
    exact ⟨hst, h.key, hsucc, h.dir, h.busy, h.done⟩

/-- The sixteenth round step ends the operation (R172). -/
theorem Running.lastRound (h : Running dir b k 15 s) :
    ∃ t, runTurn .ctl s = .next t ∧ Completed dir b k t := by
  refine ⟨_, h.runTurn_ctl, ?_⟩
  have hst := h.roundStep_st
  cases dir with
  | false =>
    simp only [roundStep, encStep_last h.rnd] at hst ⊢
    exact ⟨hst, h.key, rfl, h.dir, rfl, rfl⟩
  | true =>
    simp only [roundStep, decStep_last h.rnd] at hst ⊢
    exact ⟨hst, h.key, rfl, h.dir, rfl, rfl⟩

/-- Quiet turns do as many rounds as turns of the controller are among them. -/
theorem Running.quietTurns {ts : List Turn} (h : Running dir b k n s) (hquiet : ∀ u ∈ ts, u.quiet = true)
    (hcount : n + ts.count .ctl ≤ 15) :
    ∃ t, runTurns ts s = .next t ∧ Running dir b k (n + ts.count .ctl) t := by
  induction ts generalizing n s with
  | nil => exact ⟨s, rfl, h⟩
  | cons u ts ih =>
    obtain ⟨hu, hts⟩ := List.forall_mem_cons.1 hquiet
    cases u with
    | access a =>
      rw [List.count_cons_of_ne (by simp)] at hcount ⊢
      obtain ⟨s', hs', h'⟩ := h.access (of_decide_eq_true hu)
      rw [runTurns_cons hs']
      exact ih h' hts hcount
    | ctl =>
      rw [List.count_cons_self, Nat.add_comm _ 1, ← Nat.add_assoc] at hcount ⊢
      obtain ⟨s', hs', h'⟩ := h.round (by omega)
      rw [runTurns_cons hs']
      exact ih h' hts hcount
    | reset => cases hu
    | wait => cases hu

end

/-! ## A whole operation -/

/-- The start, quiet turns with fifteen round steps among them, and the sixteenth: the operation has ended. -/
theorem run_operation {dir : Bool} {b : Block} {k : Key} {start : Access} {s s' : State} {ts : List Turn}
    (rest : List Turn) (hstart : runTurn (.access start) s = .next s') (hrunning : Running dir b k 0 s')
    (hquiet : ∀ u ∈ ts, u.quiet = true) (hcount : ts.count .ctl = 15) :
    ∃ t, core.run (1 + ts.length + 1) { s with agenda := .access start :: (ts ++ .ctl :: rest) } = .next t ∧
      Completed dir b k t ∧ t.agenda = rest := by
  obtain ⟨u, hu, hfifteen⟩ := hrunning.quietTurns hquiet (by omega)
  rw [hcount] at hfifteen
  obtain ⟨t, ht, hdone⟩ := hfifteen.lastRound
  have hturns : runTurns (.access start :: (ts ++ [.ctl])) s = .next t := by
    rw [runTurns_cons hstart, runTurns_append hu, runTurns_one, ht]
  have hwait : .wait ∉ .access start :: (ts ++ [.ctl]) := by
    simpa using fun hmem => absurd (hquiet .wait hmem) (by decide)
  have hrun := run_of_runTurns rest hwait hturns
  rw [List.length_cons, List.length_append, List.cons_append, List.append_assoc] at hrun
  rw [Nat.add_comm 1]
  exact ⟨_, hrun, ⟨hdone.st, hdone.key, hdone.rnd, hdone.dir, hdone.busy, hdone.done⟩, rfl⟩

/-- Settles O51: the run of an operation with `DIR=0`. -/
theorem encryptionByTheMachine : Obligations.EncryptionByTheMachine := by
  intro s ts rest hidle hquiet hcount
  obtain ⟨s', hstart, hrunning⟩ := running_of_enc hidle
  obtain ⟨t, hrun, h, hagenda⟩ := run_operation rest hstart hrunning hquiet hcount
  exact ⟨t, hrun, h.st, h.key, h.busy, h.done, h.dir, h.rnd, hagenda⟩

/-- Settles O52: the run of an operation with `DIR=1`. -/
theorem decryptionByTheMachine : Obligations.DecryptionByTheMachine := by
  intro s ts rest hidle hquiet hcount
  obtain ⟨s', hstart, hrunning⟩ := running_of_dec hidle
  obtain ⟨t, hrun, h, hagenda⟩ := run_operation rest hstart hrunning hquiet hcount
  exact ⟨t, hrun, h.st, h.key, h.busy, h.done, h.dir, h.rnd, hagenda⟩

end Sys2Proof.Machine
end

section
/-! The transaction word of each host access as the sum 30_encoding.md R93 writes: what it decodes to, whatever the data
of a read. -/

namespace Sys2Proof

/-- A sum of `we`, `wa` and `wd`, each at its place, decodes as the access with these fields. -/
theorem decode_ofNat {n : Nat} (we : Bool) {wa : Nat} (hwa : wa < 16) (wd : Word)
    (hn : n = we.toNat * 0x1000000000 + wa * 0x100000000 + wd.toNat) :
    decode (.bus (BitVec.ofNat 37 n)) = decodeAccess ⟨we, BitVec.ofNat 4 wa, wd⟩ := by
  rw [hn, ← Access.toBus_eq_ofNat we wa hwa wd]
  exact decodeBus_toBus _

theorem decode_ldkey (j : Fin 8) (v : Word) :
    decode (.bus (BitVec.ofNat 37 (0x1000000000 + j.val * 0x100000000 + v.toNat))) = .ldkey j v :=
  (decode_ofNat true (by omega) v rfl).trans (decodeAccess_key j true v)

theorem decode_rdkey (j : Fin 8) (wd : Word) :
    decode (.bus (BitVec.ofNat 37 (j.val * 0x100000000 + wd.toNat))) = .rdkey j :=
  (decode_ofNat false (by omega) wd (by simp)).trans (decodeAccess_key j false wd)

theorem decode_ldblk (j : Fin 4) (v : Word) :
    decode (.bus (BitVec.ofNat 37 (0x1800000000 + j.val * 0x100000000 + v.toNat))) = .ldblk j v :=
  (decode_ofNat true (by omega) v (by simp; omega)).trans (decodeAccess_blk j true v)

theorem decode_rdblk (j : Fin 4) (wd : Word) :
    decode (.bus (BitVec.ofNat 37 (0x0800000000 + j.val * 0x100000000 + wd.toNat))) = .rdblk j :=
  (decode_ofNat false (by omega) wd (by simp; omega)).trans (decodeAccess_blk j false wd)

theorem decode_cmd {v : Word} (hv : 4 < v.toNat) :
    decode (.bus (BitVec.ofNat 37 (0x1C00000000 + v.toNat))) = .cmd v :=
  (decode_ofNat true (wa := 12) (by decide) v rfl).trans (Machine.decodeCommand_illegal hv)

theorem decode_rdctrl (wd : Word) : decode (.bus (BitVec.ofNat 37 (0x0C00000000 + wd.toNat))) = .rdctrl :=
  (decode_ofNat false (wa := 12) (by decide) wd rfl).trans (decodeAccess_ctrl false wd)

theorem decode_wrstat (v : Word) : decode (.bus (BitVec.ofNat 37 (0x1D00000000 + v.toNat))) = .wrstat v :=
  (decode_ofNat true (wa := 13) (by decide) v rfl).trans (decodeAccess_stat true v)

theorem decode_rdstat (wd : Word) : decode (.bus (BitVec.ofNat 37 (0x0D00000000 + wd.toNat))) = .rdstat :=
  (decode_ofNat false (wa := 13) (by decide) wd rfl).trans (decodeAccess_stat false wd)

theorem decode_wrrsv (a0 : Fin 2) (v : Word) :
    decode (.bus (BitVec.ofNat 37 (0x1000000000 + (14 + a0.val) * 0x100000000 + v.toNat))) = .wrrsv a0 v :=
  (decode_ofNat true (by omega) v rfl).trans (decodeAccess_rsv a0 true v)

theorem decode_rdrsv (a0 : Fin 2) (wd : Word) :
    decode (.bus (BitVec.ofNat 37 ((14 + a0.val) * 0x100000000 + wd.toNat))) = .rdrsv a0 :=
  (decode_ofNat false (by omega) wd (by simp)).trans (decodeAccess_rsv a0 false wd)

end Sys2Proof
end

section
/-! Key and block transfer (45_host_commands.md, section 1), with the reads that return 0 in every state. -/

namespace Sys2Proof.Machine

/-- Writes of `KEY` and `ST`, `ENC` and `DEC` while an operation runs (20_memory.md R57 line 6). -/
theorem whenIdle_dropped {s : State} (k : State) (hbusy : s.busy = true) : whenIdle s k = .next (dropped 1 s) :=
  (whenIdle_next s k).trans (by rw [if_pos hbusy])

/-- Settles O6: `whenIdle` in both values of `BUSY`, and the key word by word. -/
theorem ldkeyWritesOneKeyWord : Obligations.LdkeyWritesOneKeyWord := fun j v s =>
  ⟨decode_ldkey j v, whenIdle_dropped (writeKey j v s),
    fun hidle => ⟨whenIdle_idle (writeKey j v s) hidle, fun i => Key.get_set s.key j i v⟩⟩

/-- Settles O7: `whenIdle` in both values of `BUSY`, and the block word by word. -/
theorem ldblkWritesOneBlockWord : Obligations.LdblkWritesOneBlockWord := fun j v s =>
  ⟨decode_ldblk j v, whenIdle_dropped (writeBlk j v s),
    fun hidle => ⟨whenIdle_idle (writeBlk j v s) hidle, fun i => Block.get_set s.st j i v⟩⟩

/-- Settles O8: no state is looked at by these reads. -/
theorem writeOnlyAndReservedWordsReadZero : Obligations.WriteOnlyAndReservedWordsReadZero := fun j a0 wd s =>
  ⟨decode_rdkey j wd, decode_rdctrl wd, decode_rdrsv a0 wd, exec_rdkey j s, exec_rdctrl s, exec_rdrsv a0 s⟩

/-- The rule's example of R184, a row of 95_test_vectors.md. -/
theorem encrypt_zero_get_zero :
    (encrypt params ⟨0, 0, 0, 0⟩ ⟨0, 0, 0, 0, 0, 0, 0, 0⟩).get 0 = 0xEBB400F1#32 := by
  decide +kernel

/-- Settles O9: the read data in both values of `BUSY`; the rule's example by evaluation. -/
theorem rdblkReadsTheBlockWhenIdle : Obligations.RdblkReadsTheBlockWhenIdle := by
  refine fun j wd s => ⟨decode_rdblk j wd, fun hidle => ?_, fun hbusy => ?_, encrypt_zero_get_zero⟩
  · rw [exec_rdblk, hidle]; rfl
  · rw [exec_rdblk, hbusy]; rfl

end Sys2Proof.Machine
end

section
/-! The commands and the writes that no state accepts (45_host_commands.md, sections 2 and 3). -/

namespace Sys2Proof.Machine

/-- Settles O10: no state is looked at. -/
theorem nopChangesNothing : Obligations.NopChangesNothing := ⟨rfl, exec_nop⟩

/-- Settles O11: `whenIdle` in both values of `BUSY`; the status word after the start from reset by evaluation. -/
theorem encStartsAnEncryption : Obligations.EncStartsAnEncryption := by
  refine ⟨rfl, fun s => ⟨whenIdle_dropped (startEnc s), whenIdle_idle (startEnc s), ?_⟩⟩
  rintro rfl
  exact ⟨{ startEnc State.reset with rd := 0 }, rfl, by decide⟩

/-- Settles O12: `whenIdle` in both values of `BUSY`; the status word after the start from reset by evaluation. -/
theorem decStartsADecryption : Obligations.DecStartsADecryption := by
  refine ⟨rfl, fun s => ⟨whenIdle_dropped (startDec s), whenIdle_idle (startDec s), ?_⟩⟩
  rintro rfl
  exact ⟨{ startDec State.reset with rd := 0 }, rfl, by decide⟩

/-- With no error recorded there is no cause to clear (10_state.md R37 (c)). -/
theorem clearError_of_errorFree {s : State} (hinv : s.Inv) (herr : s.err = false) : clearError s = s := by
  have hcause : s.ecause = 0 := hinv.err_iff.1 herr
  rw [clearError, ← herr, ← hcause]

/-- Settles O13: the invariant is needed only where nothing is to change. -/
theorem clrerrClearsTheErrorRecord : Obligations.ClrerrClearsTheErrorRecord := by
  refine ⟨rfl, fun s => ⟨exec_clrerr s, fun hinv herr => ?_⟩⟩
  rw [exec_clrerr, clearError_of_errorFree hinv herr, accept_next]

/-- Settles O14: both ways to the reset state, and each of its registers. -/
theorem srstAndResetClearEverything : Obligations.SrstAndResetClearEverything :=
  ⟨rfl, fun s _ => ⟨exec_srst s, step_reset rfl⟩, by decide, by decide, rfl, rfl, rfl, rfl, rfl, rfl, by decide, rfl,
    rfl⟩

/-- Settles O15: neither the decoding of data above 4 nor the drop looks at `BUSY`. -/
theorem reservedCommandsAreIllegal : Obligations.ReservedCommandsAreIllegal := fun _ s hv =>
  ⟨decode_cmd hv, (exec_cmd hv s).trans (raise_eq_dropped .eIllCmd s)⟩

/-- Settles O16: both writes are the same drop, with cause 3. -/
theorem writesToBadAddressesAreDropped : Obligations.WritesToBadAddressesAreDropped := fun a0 v s =>
  ⟨decode_wrstat v, decode_wrrsv a0 v, (exec_wrstat v s).trans (raise_eq_dropped .eBadAddr s),
    (exec_wrrsv a0 v s).trans (raise_eq_dropped .eBadAddr s)⟩

end Sys2Proof.Machine
end

section
/-! The status word (10_state.md R32, 45_host_commands.md R192): its value, the fields a host decodes from it, and the
values it has in a state that meets 10_state.md R37. -/

namespace Sys2Proof.Machine

/-- `STATUS` as `ECAUSE` with the four flags put below it, one bit each. -/
theorem statusWord_eq_concat (s : State) :
    statusWord s = ((((s.ecause.concat s.err).concat s.dir).concat s.done).concat s.busy).setWidth 32 := rfl

theorem statusWord_toNat (s : State) :
    (statusWord s).toNat =
      s.busy.toNat + 2 * s.done.toNat + 4 * s.dir.toNat + 8 * s.err.toNat + 16 * s.ecause.toNat := by
  rw [statusWord_eq_concat, BitVec.toNat_setWidth_of_le (by decide)]
  simp only [BitVec.toNat_concat]
  omega

/-- A host reads back every flag (30_encoding.md R83). -/
theorem decodeStat_statusWord (s : State) :
    decodeStat (statusWord s) = ⟨s.busy, s.done, s.dir, s.err, s.ecause⟩ := by
  have hcause : (statusWord s).extractLsb' 4 3 = s.ecause := by
    ext i hi
    have hplace : 4 + i < 32 := by omega
    simp [statusWord_eq_concat, BitVec.getLsbD_concat, hi, hplace]
  rw [decodeStat, hcause]
  simp [statusWord_eq_concat]

/-- `BUSY`, `DONE` and `DIR`: `BUSY=1` excludes `DONE=1` (10_state.md R37 (a)). -/
theorem State.Inv.flags_mem {s : State} (h : s.Inv) :
    s.busy.toNat + 2 * s.done.toNat + 4 * s.dir.toNat ∈ [0x00, 0x01, 0x05, 0x02, 0x06, 0x04] := by
  have hdone := h.busy_not_done
  cases hb : s.busy with
  | false => cases s.done <;> cases s.dir <;> decide
  | true => rw [hdone hb]; cases s.dir <;> decide

/-- `ERR` and `ECAUSE`: both 0, or `ERR=1` with a cause of 1 to 3 (10_state.md R37 (c)). -/
theorem State.Inv.errorRecord_mem {s : State} (h : s.Inv) :
    8 * s.err.toNat + 16 * s.ecause.toNat ∈ [0x00, 0x18, 0x28, 0x38] := by
  cases herr : s.err with
  | false => rw [h.err_iff.1 herr]; decide
  | true =>
    have hpos : 0 < s.ecause.toNat := Nat.pos_of_ne_zero fun hzero =>
      Bool.false_ne_true ((h.err_iff.2 (BitVec.eq_of_toNat_eq hzero)).symm.trans herr)
    have hle := h.ecause_le
    generalize s.ecause.toNat = c at hpos hle ⊢
    interval_cases c <;> decide

/-- Settles O17: the value of the status word is a sum of the flags' part and the error record's part. -/
theorem rdstatReadsTheFlags : Obligations.RdstatReadsTheFlags := by
  refine fun wd s => ⟨decode_rdstat wd, exec_rdstat s, statusWord_toNat s, decodeStat_statusWord s, fun hinv => ?_⟩
  refine ⟨_, hinv.flags_mem, _, hinv.errorRecord_mem, ?_⟩
  rw [statusWord_toNat, Nat.add_assoc]

end Sys2Proof.Machine
end

section
/-! One clock cycle (70_reset_and_hazards.md R257): the cycle by the events it holds. -/

namespace Sys2Proof.Machine

section
variable {p : PortIn} {e : Bool} {s : State}

/-! ## The cycle as its turns -/

/-- (a) Reset wins over whatever else the cycle holds. -/
theorem clockCycle_reset (hrst : p.rst = true) : clockCycle p e s = .next { State.reset with agenda := s.agenda } := by
  rw [clockCycle, cycleTurns, if_pos hrst, runTurns_one]
  rfl

/-- An access with no round step ending. -/
theorem clockCycle_access (hrst : p.rst = false) (hsel : p.sel = true) (hround : (e && s.busy) = false) :
    clockCycle p e s = exec (decodeAccess ⟨p.we, p.wa, p.wd⟩) s := by
  simp only [clockCycle, cycleTurns, hrst, hsel, hround, if_true, Bool.false_eq_true, if_false, List.append_nil]
  exact runTurns_one _ s

/-- A round step ending with no access. -/
theorem clockCycle_round (hrst : p.rst = false) (hsel : p.sel = false) (hbusy : s.busy = true) :
    clockCycle p true s = exec (ctlInstr s) s := by
  simp only [clockCycle, cycleTurns, hrst, hsel, hbusy, Bool.and_self, if_true, Bool.false_eq_true, if_false,
    List.nil_append]
  exact runTurns_one _ s

/-- (b) An access in the cycle in which a round step ends: the access first. -/
theorem clockCycle_access_round (hrst : p.rst = false) (hsel : p.sel = true) (hbusy : s.busy = true) {u : State}
    (haccess : exec (decodeAccess ⟨p.we, p.wa, p.wd⟩) s = .next u) : clockCycle p true s = exec (ctlInstr u) u := by
  simp only [clockCycle, cycleTurns, hrst, hsel, hbusy, Bool.and_self, if_true, Bool.false_eq_true, if_false]
  exact runTurns_two _ haccess

/-! ## What the access and the round step make of each other -/

/-- A block write while busy is dropped, whichever word it names. -/
theorem exec_blockWrite_of_busy {wa : BitVec 4} (hlo : 8 ≤ wa.toNat) (hhi : wa.toNat < 12) (wd : Word)
    (hbusy : s.busy = true) : exec (decodeAccess ⟨true, wa, wd⟩) s = .next (dropped 1 s) := by
  rw [exec_write, windowWrite_blk ⟨wa.toNat - 8, by omega⟩ (by simp only; omega), whenIdle_dropped _ hbusy]

/-- A round step computes one round of the direction and leaves the error record as it is. -/
theorem exec_ctlInstr_of_busy (hbusy : s.busy = true) :
    ∃ t, exec (ctlInstr s) s = .next t ∧ t.err = s.err ∧ t.ecause = s.ecause ∧
      t.st = if s.dir then decRound params s.st s.key s.rnd else encRound params s.st s.key s.rnd := by
  refine ⟨_, (runTurn_ctl s).trans (accept_next _), ?_⟩
  rw [if_pos hbusy]
  cases s.dir with
  | false => exact ⟨encStep_err s, encStep_ecause s, encStep_st s⟩
  | true => exact ⟨decStep_err s, decStep_ecause s, decStep_st s⟩

/-- (b) A block write in the cycle in which a round step ends is dropped, and the round completes. -/
theorem clockCycle_blockWrite_round (hrst : p.rst = false) (hsel : p.sel = true) (hbusy : s.busy = true)
    (hwe : p.we = true) (hlo : 8 ≤ p.wa.toNat) (hhi : p.wa.toNat < 12) :
    ∃ t, clockCycle p true s = .next t ∧ t.err = true ∧ (s.err = false → t.ecause = 1) ∧
      t.st = if s.dir then decRound params s.st s.key s.rnd else encRound params s.st s.key s.rnd := by
  have hdropped := exec_blockWrite_of_busy hlo hhi p.wd hbusy
  rw [← hwe] at hdropped
  obtain ⟨t, hround, herr, hcause, hst⟩ := exec_ctlInstr_of_busy (s := dropped 1 s) hbusy
  exact ⟨t, (clockCycle_access_round hrst hsel hbusy hdropped).trans hround, herr,
    fun hclear => hcause.trans (by simp only [dropped, hclear]; rfl), hst⟩

/-- A status read shows `BUSY=1` in every cycle that starts busy. -/
theorem portOut_status_of_busy (hsel : p.sel = true) (hbusy : s.busy = true) (hwe : p.we = false) (hwa : p.wa = 13) :
    (portOut p s).rd.getLsbD 0 = true := by
  have hread : (portOut p s).rd = statusWord s := by
    simp only [portOut, hsel, hwe, Bool.not_false, Bool.and_self, if_true]
    exact windowRead_stat (congrArg BitVec.toNat hwa) s
  rw [hread]
  exact (congrArg Stat.busy (decodeStat_statusWord s)).trans hbusy

/-- (c) `SRST` cancels the round step: after it the controller has none to take. -/
theorem clockCycle_srst (hrst : p.rst = false) (hsel : p.sel = true)
    (hsrst : decodeAccess ⟨p.we, p.wa, p.wd⟩ = .srst) :
    clockCycle p e s = .next { State.reset with agenda := s.agenda } := by
  have haccess := (congrArg (exec · s) hsrst).trans (exec_srst s)
  cases hround : e && s.busy with
  | false => exact (clockCycle_access hrst hsel hround).trans haccess
  | true =>
    obtain ⟨rfl, hbusy⟩ := (Bool.and_eq_true _ _).mp hround
    rw [clockCycle_access_round hrst hsel hbusy haccess, ctlInstr_idle rfl, exec_idle rfl]
    rfl

/-- (d) A cycle that starts idle completes no round step, whatever its access does. -/
theorem clockCycle_access_of_idle {i : Instr} (hrst : p.rst = false) (hsel : p.sel = true) (hidle : s.busy = false)
    (hi : decodeAccess ⟨p.we, p.wa, p.wd⟩ = i) : clockCycle p e s = exec i s := by
  rw [clockCycle_access hrst hsel (by rw [hidle, Bool.and_false]), hi]

end

/-- Settles O59: one lemma for each clause of R257, and one for each cycle with a single event. -/
theorem eventsOfOneCycleAreOrdered : Obligations.EventsOfOneCycleAreOrdered := fun _ _ _ =>
  ⟨clockCycle_reset, fun hrst hsel hbusy _ => clockCycle_access_round hrst hsel hbusy, clockCycle_blockWrite_round,
    clockCycle_round, fun hrst hsel hone => clockCycle_access hrst hsel (Bool.and_eq_false_iff.mpr hone),
    fun _ => portOut_status_of_busy, clockCycle_srst, clockCycle_access_of_idle, clockCycle_access_of_idle⟩

end Sys2Proof.Machine
end

section
/-! Weakly fair executions (70_reset_and_hazards.md R256). That a busy controller comes to an end or is cut short is an
induction on the round steps left; what it has computed by then is `Running`, carried along the same turns. -/

namespace Sys2Proof.Machine

/-! ## One turn of a busy core -/

/-- The round steps left when the next one is done: the measure every round step lowers. -/
def roundsAfterNext (s : State) : Nat := if s.dir then s.rnd.val else 15 - s.rnd.val

/-- An access other than `SRST` neither ends the operation nor brings its end nearer. -/
theorem busy_of_quiet_access {a : Access} {s t : State} (hbusy : s.busy = true) (hsrst : decodeAccess a ≠ .srst)
    (hturn : runTurn (.access a) s = .next t) : t.busy = true ∧ roundsAfterNext t = roundsAfterNext s := by
  obtain ⟨err, ecause, rd, hexec⟩ := exec_access_of_busy hbusy hsrst
  cases hexec.symm.trans hturn
  exact ⟨hbusy, rfl⟩

theorem encStep_advances_or_ends {s : State} (hbusy : s.busy = true) (hdir : s.dir = false) :
    ((encStep s).busy = true ∧ roundsAfterNext (encStep s) < roundsAfterNext s) ∨
      ((encStep s).busy = false ∧ (encStep s).done = true) := by
  by_cases hlast : s.rnd = 15
  · rw [encStep_last hlast]
    exact .inr ⟨rfl, rfl⟩
  · have hcount : ∀ r : Fin 16, r ≠ 15 → 15 - (r + 1).val < 15 - r.val := by decide
    rw [encStep_mid hlast]
    exact .inl ⟨hbusy, by simpa [roundsAfterNext, hdir] using hcount s.rnd hlast⟩

theorem decStep_advances_or_ends {s : State} (hbusy : s.busy = true) (hdir : s.dir = true) :
    ((decStep s).busy = true ∧ roundsAfterNext (decStep s) < roundsAfterNext s) ∨
      ((decStep s).busy = false ∧ (decStep s).done = true) := by
  by_cases hlast : s.rnd = 0
  · rw [decStep_last hlast]
    exact .inr ⟨rfl, rfl⟩
  · have hcount : ∀ r : Fin 16, r ≠ 0 → (r - 1).val < r.val := by decide
    rw [decStep_mid hlast]
    exact .inl ⟨hbusy, by simpa [roundsAfterNext, hdir] using hcount s.rnd hlast⟩

/-- The controller's turn brings the end nearer, or is it. -/
theorem ctl_advances_or_ends {s t : State} (hbusy : s.busy = true) (hturn : runTurn .ctl s = .next t) :
    (t.busy = true ∧ roundsAfterNext t < roundsAfterNext s) ∨ (t.busy = false ∧ t.done = true) := by
  rw [runTurn_ctl, if_pos hbusy, accept_next] at hturn
  cases hdir : s.dir with
  | false =>
    rw [hdir] at hturn
    cases hturn
    exact encStep_advances_or_ends hbusy hdir
  | true =>
    rw [hdir] at hturn
    cases hturn
    exact decStep_advances_or_ends hbusy hdir

/-! ## The polling host -/

/-- The value a poll reads shows `BUSY` as it was. -/
theorem busy_of_poll {s t : State} (hturn : runTurn (.access statAccess) s = .next t) :
    (decodeStat t.rd).busy = s.busy := by
  cases (exec_rdstat s).symm.trans hturn
  rw [decodeStat_statusWord]

theorem idle_of_reset {s t : State} (hturn : runTurn .reset s = .next t) : t.busy = false := by
  cases hturn
  rfl

/-- The turns of a polling host leave an idle core idle. -/
theorem idle_of_polling_turn {u : Turn} {s t : State} (hu : u = .access statAccess ∨ u = .ctl ∨ u = .reset)
    (hidle : s.busy = false) (hturn : runTurn u s = .next t) : t.busy = false := by
  obtain rfl | rfl | rfl := hu
  · cases (exec_rdstat s).symm.trans hturn
    exact hidle
  · rw [runTurn_ctl, if_neg (by rw [hidle]; decide)] at hturn
    cases hturn
    exact hidle
  · exact idle_of_reset hturn

/-! ## Along an execution -/

section
variable {σ : Nat → State} {turn : Nat → Turn} {n l m : Nat}

/-- From `n` up to `m` the core is busy and nothing cuts its operation short. -/
def RunsOn (σ : Nat → State) (turn : Nat → Turn) (n m : Nat) : Prop :=
  ∀ k : Nat, n ≤ k → k < m → (σ k).busy = true ∧ (turn k).quiet = true

/-- At `m` the operation is cut short, or it has ended. -/
def CutOrEnded (σ : Nat → State) (turn : Nat → Turn) (m : Nat) : Prop :=
  (σ m).busy = true ∧ (turn m).quiet = false ∨ (σ m).busy = false ∧ (σ m).done = true

theorem RunsOn.trans (h : RunsOn σ turn n l) (h' : RunsOn σ turn l m) : RunsOn σ turn n m := fun k hnk hkm =>
  (Nat.lt_or_ge k l).elim (h k hnk) (h' k · hkm)

theorem RunsOn.succ (h : RunsOn σ turn n m) (hbusy : (σ m).busy = true) (hquiet : (turn m).quiet = true) :
    RunsOn σ turn n (m + 1) :=
  h.trans fun k hmk hkm => by
    obtain rfl : m = k := by omega
    exact ⟨hbusy, hquiet⟩

/-- While only accesses other than `SRST` are made, the operation stands still. -/
theorem runsOn_of_accesses (hexec : IsExecution σ turn) (hbusy : (σ n).busy = true) (hnm : n ≤ m)
    (hhost : ∀ k, n ≤ k → k < m → turn k ≠ .ctl ∧ (turn k).quiet = true) :
    RunsOn σ turn n m ∧ (σ m).busy = true ∧ roundsAfterNext (σ m) = roundsAfterNext (σ n) := by
  induction m, hnm using Nat.le_induction with
  | base => exact ⟨fun k hnk hkn => absurd hkn (Nat.not_lt.2 hnk), hbusy, rfl⟩
  | succ m hnm ih =>
    obtain ⟨hrun, hbusy', hleft⟩ := ih fun k hnk hkm => hhost k hnk (Nat.lt_succ_of_lt hkm)
    obtain ⟨hctl, hquiet⟩ := hhost m hnm (Nat.lt_succ_self m)
    refine ⟨hrun.succ hbusy' hquiet, ?_⟩
    have hturn := (hexec m).2
    cases hu : turn m with
    | access a =>
      rw [hu] at hturn hquiet
      obtain ⟨hbusy'', hleft'⟩ := busy_of_quiet_access hbusy' (of_decide_eq_true hquiet) hturn
      exact ⟨hbusy'', hleft'.trans hleft⟩
    | ctl => exact absurd hu hctl
    | reset => rw [hu] at hquiet; cases hquiet
    | wait => rw [hu] at hquiet; cases hquiet

/-- Fairness: a busy core gets to the controller's turn or to a turn that cuts it short. -/
theorem exists_ctl_or_cut (hexec : IsExecution σ turn) (hfair : WeaklyFair σ turn) (hbusy : (σ n).busy = true) :
    ∃ m, n ≤ m ∧ (turn m = .ctl ∨ (turn m).quiet = false) := by
  by_contra! hnone
  have hhost : ∀ k, n ≤ k → turn k ≠ .ctl ∧ (turn k).quiet = true := fun k hnk =>
    (hnone k hnk).imp_right (Bool.eq_true_of_not_eq_false ·)
  obtain ⟨m, hnm, hctl⟩ := hfair n fun m hnm => (runsOn_of_accesses hexec hbusy hnm fun k hnk _ => hhost k hnk).2.1
  exact (hhost m hnm).1 hctl

/-- The first such turn finds the operation where it was. -/
theorem exists_first_ctl_or_cut (hexec : IsExecution σ turn) (hfair : WeaklyFair σ turn) (hbusy : (σ n).busy = true) :
    ∃ m, n ≤ m ∧ RunsOn σ turn n m ∧ (σ m).busy = true ∧ roundsAfterNext (σ m) = roundsAfterNext (σ n) ∧
      (turn m = .ctl ∨ (turn m).quiet = false) := by
  have hsome := exists_ctl_or_cut hexec hfair hbusy
  obtain ⟨hnm, hfirst⟩ := Nat.find_spec hsome
  obtain ⟨hrun, hbusy', hleft⟩ := runsOn_of_accesses hexec hbusy hnm fun k hnk hkm => by
    simpa [hnk] using Nat.find_min hsome hkm
  exact ⟨Nat.find hsome, hnm, hrun, hbusy', hleft, hfirst⟩

/-- R256: a busy core is cut short or ends its operation, by induction on the round steps left. -/
theorem busy_isCutOrEnds (hexec : IsExecution σ turn) (hfair : WeaklyFair σ turn) (hbusy : (σ n).busy = true) :
    ∃ m, n ≤ m ∧ RunsOn σ turn n m ∧ CutOrEnded σ turn m := by
  induction hleft : roundsAfterNext (σ n) using Nat.strong_induction_on generalizing n with
  | _ left ih =>
    obtain ⟨l, hnl, hrun, hbusy', hleft', hctl | hcut⟩ := exists_first_ctl_or_cut hexec hfair hbusy
    · have hturn := (hexec l).2
      rw [hctl] at hturn
      have hround : RunsOn σ turn n (l + 1) := hrun.succ hbusy' (by rw [hctl]; rfl)
      obtain ⟨hbusy'', hless⟩ | hended := ctl_advances_or_ends hbusy' hturn
      · obtain ⟨m, hlm, hrun', hend⟩ := ih _ (by omega) hbusy'' rfl
        exact ⟨m, by omega, hround.trans hrun', hend⟩
      · exact ⟨l + 1, by omega, hround, .inr hended⟩
    · exact ⟨l, hnl, hrun, .inl ⟨hbusy', hcut⟩⟩

/-! ## The result -/

/-- A quiet turn of a running operation goes on with it or completes it. -/
theorem Running.quietTurn {dir : Bool} {b : Block} {k : Key} {r : Nat} {u : Turn} {s t : State}
    (h : Running dir b k r s) (hr : r ≤ 15) (hquiet : u.quiet = true) (hturn : runTurn u s = .next t) :
    (∃ r' ≤ 15, Running dir b k r' t) ∨ Completed dir b k t := by
  cases u with
  | access a =>
    obtain ⟨t', hturn', h'⟩ := h.access (of_decide_eq_true hquiet)
    cases hturn'.symm.trans hturn
    exact .inl ⟨r, hr, h'⟩
  | ctl =>
    obtain hmid | rfl := Nat.lt_or_eq_of_le hr
    · obtain ⟨t', hturn', h'⟩ := h.round hmid
      cases hturn'.symm.trans hturn
      exact .inl ⟨r + 1, hmid, h'⟩
    · obtain ⟨t', hturn', h'⟩ := h.lastRound
      cases hturn'.symm.trans hturn
      exact .inr h'
  | reset => cases hquiet
  | wait => cases hquiet

/-- The same along the turns of an execution. -/
theorem Running.runsOn {dir : Bool} {b : Block} {k : Key} {r : Nat} (hexec : IsExecution σ turn)
    (h : Running dir b k r (σ n)) (hr : r ≤ 15) (hnm : n ≤ m) (hrun : RunsOn σ turn n m) :
    (∃ r' ≤ 15, Running dir b k r' (σ m)) ∨ Completed dir b k (σ m) := by
  induction m, hnm using Nat.le_induction with
  | base => exact .inl ⟨r, hr, h⟩
  | succ m hnm ih =>
    obtain ⟨hbusy, hquiet⟩ := hrun m hnm (Nat.lt_succ_self m)
    obtain ⟨r', hr', h'⟩ | hdone := ih fun k hnk hkm => hrun k hnk (Nat.lt_succ_of_lt hkm)
    · exact h'.quietTurn hr' hquiet (hexec m).2
    · exact absurd (hdone.busy.symm.trans hbusy) Bool.false_ne_true

/-- R256: a started operation is cut short or completes with its result. -/
theorem Running.isCutOrCompletes {dir : Bool} {b : Block} {k : Key} (hexec : IsExecution σ turn)
    (hfair : WeaklyFair σ turn) (h : Running dir b k 0 (σ n)) :
    ∃ m, n ≤ m ∧ RunsOn σ turn n m ∧
      ((σ m).busy = true ∧ (turn m).quiet = false ∨ Completed dir b k (σ m)) := by
  obtain ⟨m, hnm, hrun, hcut | ⟨hidle, -⟩⟩ := busy_isCutOrEnds hexec hfair h.busy
  · exact ⟨m, hnm, hrun, .inl hcut⟩
  · obtain ⟨r, -, h'⟩ | hdone := h.runsOn hexec (Nat.zero_le 15) hnm hrun
    · exact absurd (hidle.symm.trans h'.busy) Bool.false_ne_true
    · exact ⟨m, hnm, hrun, .inr hdone⟩

/-- R256, from the turn that starts the operation: all that holds when it has ended. -/
theorem start_isCutOrCompletes {dir : Bool} {b : Block} {k : Key} {a : Access} {i : Instr}
    (hexec : IsExecution σ turn) (hfair : WeaklyFair σ turn) (haccess : turn n = .access a) (hi : decodeAccess a = i)
    (hstart : ∃ t, exec i (σ n) = .next t ∧ Running dir b k 0 t) :
    ∃ m, n < m ∧ RunsOn σ turn (n + 1) m ∧
      ((σ m).busy = true ∧ (turn m).quiet = false ∨
        (σ m).busy = false ∧ (σ m).done = true ∧ (σ m).dir = dir ∧ (σ m).st = opRounds dir b k Config.nr ∧
          (σ m).key = k) := by
  obtain ⟨t, hnext, hrunning⟩ := hstart
  have hturn := (hexec n).2
  rw [haccess, runTurn, hi] at hturn
  cases hnext.symm.trans hturn
  obtain ⟨m, hnm, hrun, hend⟩ := hrunning.isCutOrCompletes hexec hfair
  exact ⟨m, hnm, hrun, hend.imp_right fun h => ⟨h.busy, h.done, h.dir, h.st, h.key⟩⟩

/-! ## `WAIT` ends -/

/-- The host polls, with the controller and reset between, and does nothing else. -/
def OnlyPolls (turn : Nat → Turn) (n : Nat) : Prop :=
  ∀ m : Nat, n ≤ m → turn m = .access statAccess ∨ turn m = .ctl ∨ turn m = .reset

/-- Of a polling host's turns only reset can cut an operation short, and it leaves the core idle too. -/
theorem exists_idle_of_onlyPolls (hexec : IsExecution σ turn) (hfair : WeaklyFair σ turn) (hpolls : OnlyPolls turn n) :
    ∃ l, n ≤ l ∧ (σ l).busy = false := by
  cases hbusy : (σ n).busy with
  | false => exact ⟨n, le_rfl, hbusy⟩
  | true =>
    obtain ⟨m, hnm, -, ⟨-, hcut⟩ | ⟨hidle, -⟩⟩ := busy_isCutOrEnds hexec hfair hbusy
    · have hturn := (hexec m).2
      obtain hu | hu | hu := hpolls m hnm <;> rw [hu] at hcut hturn
      · exact absurd hcut (by decide)
      · cases hcut
      · exact ⟨m + 1, by omega, idle_of_reset hturn⟩
    · exact ⟨m, hnm, hidle⟩

theorem idle_of_onlyPolls (hexec : IsExecution σ turn) (hpolls : OnlyPolls turn n) (hnl : n ≤ l)
    (hidle : (σ l).busy = false) (hlm : l ≤ m) : (σ m).busy = false := by
  induction m, hlm using Nat.le_induction with
  | base => exact hidle
  | succ m hlm ih => exact idle_of_polling_turn (hpolls m (hnl.trans hlm)) ih (hexec m).2

/-- R256: a host that goes on polling reads `BUSY=0`. -/
theorem exists_idle_poll (hexec : IsExecution σ turn) (hfair : WeaklyFair σ turn) (hpolls : OnlyPolls turn n)
    (hagain : ∀ k, n ≤ k → ∃ m, k ≤ m ∧ turn m = .access statAccess) :
    ∃ m, n ≤ m ∧ turn m = .access statAccess ∧ (decodeStat (σ (m + 1)).rd).busy = false := by
  obtain ⟨l, hnl, hidle⟩ := exists_idle_of_onlyPolls hexec hfair hpolls
  obtain ⟨m, hlm, hpoll⟩ := hagain l hnl
  have hturn := (hexec m).2
  rw [hpoll] at hturn
  exact ⟨m, hnl.trans hlm, hpoll, (busy_of_poll hturn).trans (idle_of_onlyPolls hexec hpolls hnl hidle hlm)⟩

end

/-- Settles O55: the two starts run to their result, any busy state to an end, and the polls to `BUSY=0`. -/
theorem fairExecutionsFinishOperations : Obligations.FairExecutionsFinishOperations := fun _ _ hexec hfair =>
  ⟨fun _ _ haccess hidle henc => start_isCutOrCompletes hexec hfair haccess henc (running_of_enc hidle),
    fun _ _ haccess hidle hdec => start_isCutOrCompletes hexec hfair haccess hdec (running_of_dec hidle),
    fun _ => busy_isCutOrEnds hexec hfair, fun _ => exists_idle_poll hexec hfair⟩

end Sys2Proof.Machine
end

section
/-! The encoder and the decoder, each after the other (30_encoding.md R88, R89), and the host script's statements as the
accesses their formulas note (R93). -/

namespace Sys2Proof

open Machine

/-! ## Decode after encode -/

/-- The word of an access decodes to the instruction with that access: one case for each row of the two tables. -/
theorem decode_encode {i : Instr} (hwf : i.wellFormed = true) : decode (encode i) = i := by
  cases i with
  | ldkey j v => exact (decodeBus_toBus _).trans (decodeAccess_key j true v)
  | rdkey j => exact (decodeBus_toBus _).trans (decodeAccess_key j false 0)
  | ldblk j v => exact (decodeBus_toBus _).trans (decodeAccess_blk j true v)
  | rdblk j => exact (decodeBus_toBus _).trans (decodeAccess_blk j false 0)
  | cmd v => exact (decodeBus_toBus _).trans (decodeCommand_illegal (of_decide_eq_true hwf))
  | wrrsv a0 v => exact (decodeBus_toBus _).trans (decodeAccess_rsv a0 true v)
  | rdrsv a0 => exact (decodeBus_toBus _).trans (decodeAccess_rsv a0 false 0)
  | nop | enc | dec | clrerr | srst | rdctrl | wrstat | rdstat => exact decodeBus_toBus _
  | encround | decround | idle => rfl

/-- Settles O1: an access is read back from its word, and the rows of the controller by evaluation. -/
theorem decodeOfEncodeIsIdentity : Obligations.DecodeOfEncodeIsIdentity := fun _ => decode_encode

/-! ## Encode after decode -/

/-- A `CTRL` write is encoded with the data it had, named command or reserved one. -/
theorem encode_decodeCommand (v : Word) : encode (decodeCommand v) = .bus (writeOf 12 v).toBus := by
  obtain rfl | rfl | rfl | rfl | rfl | hv := command_cases v
  case inr.inr.inr.inr.inr => rw [decodeCommand_illegal hv]; rfl
  all_goals rfl

/-- A write is encoded back as it is, a read with its ignored data at 0. -/
theorem encode_decodeAccess (a : Access) :
    encode (decodeAccess a) = .bus (if a.we then a else { we := false, wa := a.wa, wd := 0 }).toBus := by
  obtain ⟨we, wa, wd⟩ := a
  obtain ⟨j, rfl⟩ | ⟨j, rfl⟩ | rfl | rfl | ⟨j, rfl⟩ := wa_cases wa
  · rw [decodeAccess_key]; cases we <;> rfl
  · rw [decodeAccess_blk]; cases we <;> rfl
  · rw [decodeAccess_ctrl]
    cases we with
    | false => rfl
    | true => exact encode_decodeCommand wd
  · rw [decodeAccess_stat]; cases we <;> rfl
  · rw [decodeAccess_rsv]; cases we <;> rfl

theorem encode_decodeBus (t : BitVec 37) : encode (decodeBus t) =
    .bus (if busWe t then t else Access.toBus { we := false, wa := busWa t, wd := 0 }) := by
  rw [decodeBus, encode_decodeAccess, apply_ite Access.toBus, Access.toBus_ofBus]
  rfl

/-- The data of a read is no operand (R81). -/
theorem decodeAccess_read_ignores_data (wa : BitVec 4) (wd wd' : Word) :
    decodeAccess ⟨false, wa, wd⟩ = decodeAccess ⟨false, wa, wd'⟩ := rfl

theorem encode_decodeCtl (s : BitVec 2) : encode (decodeCtl s) = .ctl (if s.getLsbD 1 then s else 0) := by
  revert s; decide

/-- Settles O2: the words through their accesses, the four selectors by evaluation. -/
theorem encodeOfDecodeIsCanonical : Obligations.EncodeOfDecodeIsCanonical := by
  refine ⟨encode_decodeBus, fun wa wd wd' => ?_, encode_decodeCtl⟩
  rw [decodeBus_toBus, decodeBus_toBus, decodeAccess_read_ignores_data]

/-- Settles O5: each word by evaluation of the decoder. -/
theorem sampleWordsDecode : Obligations.SampleWordsDecode := by
  refine ⟨?_, ?_, ?_, ?_, ?_, ?_, ?_⟩ <;> decide

/-! ## The host script (R93) -/

/-- The formula of a statement is the sum of the fields of one access, the one the statement names. -/
theorem stmtCode_eq_sum {c : Stmt} {n : Nat} (hcode : stmtCode c = some n) :
    ∃ (we : Bool) (wa : Nat) (wd : Word), wa < 16 ∧
      n = we.toNat * 0x1000000000 + wa * 0x100000000 + wd.toNat ∧
      stmtInstr c = some (decodeAccess ⟨we, BitVec.ofNat 4 wa, wd⟩) := by
  cases c <;> cases hcode
  case ldkey j v => exact ⟨true, j.val, v, by omega, rfl, by rw [decodeAccess_key]; rfl⟩
  case rdkey j => exact ⟨false, j.val, 0, by omega, by simp, by rw [decodeAccess_key]; rfl⟩
  case ldblk j v => exact ⟨true, 8 + j.val, v, by omega, by simp; omega, by rw [decodeAccess_blk]; rfl⟩
  case rdblk j => exact ⟨false, 8 + j.val, 0, by omega, by simp; omega, by rw [decodeAccess_blk]; rfl⟩
  case nop => exact ⟨true, 12, 0, by decide, rfl, rfl⟩
  case enc => exact ⟨true, 12, 1, by decide, rfl, rfl⟩
  case dec => exact ⟨true, 12, 2, by decide, rfl, rfl⟩
  case clrerr => exact ⟨true, 12, 3, by decide, rfl, rfl⟩
  case srst => exact ⟨true, 12, 4, by decide, rfl, rfl⟩
  case cmd v => exact ⟨true, 12, v, by decide, rfl, rfl⟩
  case rdctrl => exact ⟨false, 12, 0, by decide, rfl, rfl⟩
  case wrstat v => exact ⟨true, 13, v, by decide, rfl, rfl⟩
  case rdstat => exact ⟨false, 13, 0, by decide, rfl, rfl⟩
  case wrrsv a0 v => exact ⟨true, 14 + a0.val, v, by omega, rfl, by rw [decodeAccess_rsv]; rfl⟩
  case rdrsv a0 => exact ⟨false, 14 + a0.val, 0, by omega, by simp, by rw [decodeAccess_rsv]; rfl⟩
  case wr a v => exact ⟨true, a.val, v, a.isLt, rfl, rfl⟩
  case rd a => exact ⟨false, a.val, 0, a.isLt, by simp, rfl⟩

/-- A statement with a word is one turn. -/
theorem stmtTurns_of_stmtCode {c : Stmt} {n : Nat} (hcode : stmtCode c = some n) : stmtTurns c = [turnOf n] := by
  cases c <;> cases hcode <;> rfl

/-- Every statement but `STEP` is an access. -/
theorem exists_code_and_instr {c : Stmt} (hstep : ∀ n, c ≠ .step n) :
    ∃ (n : Nat) (i : Instr), stmtCode c = some n ∧ stmtInstr c = some i := by
  cases c with
  | step n => exact absurd rfl (hstep n)
  | _ => exact ⟨_, _, rfl, rfl⟩

/-- Settles O4: the word through the fields it is the sum of; the named commands and `STEP` by definition. -/
theorem scriptStatementsAreTheirAccesses : Obligations.ScriptStatementsAreTheirAccesses := by
  refine ⟨fun _ => exists_code_and_instr, fun c n i hcode hinstr => ?_, rfl, rfl, rfl, rfl, rfl,
    fun _ => ⟨rfl, rfl, rfl⟩⟩
  obtain ⟨we, wa, wd, hwa, hsum, hi⟩ := stmtCode_eq_sum hcode
  have hlt : n < 2 ^ 37 := by
    have := wd.isLt
    have := we.toNat_le
    omega
  have hdecode : decodeBus (BitVec.ofNat 37 n) = i :=
    (decode_ofNat we hwa wd hsum).trans (Option.some_inj.1 (hi.symm.trans hinstr))
  exact ⟨hlt, hdecode, stmtTurns_of_stmtCode hcode⟩

end Sys2Proof
end

section
/-! The invariant of the flags (10_state.md R37 (a) to (c)): each shared operation keeps it, so every instruction, every
turn and every step does. -/

namespace Sys2Proof.Machine

/-! ## The shared operations -/

/-- The invariant looks at the flags and `RND` only. -/
theorem State.Inv.congr {s t : State} (h : s.Inv) (hbusy : t.busy = s.busy) (hdone : t.done = s.done)
    (hrnd : t.rnd = s.rnd) (herr : t.err = s.err) (hcause : t.ecause = s.ecause) : t.Inv where
  busy_not_done := by rw [hbusy, hdone]; exact h.busy_not_done
  idle_rnd := by rw [hbusy, hrnd]; exact h.idle_rnd
  err_iff := by rw [herr, hcause]; exact h.err_iff
  ecause_le := by rw [hcause]; exact h.ecause_le

theorem State.Inv.withRd {s : State} (h : s.Inv) (v : Word) : State.Inv { s with rd := v } :=
  h.congr rfl rfl rfl rfl rfl

theorem State.Inv.withAgenda {s : State} (h : s.Inv) (ag : List Turn) : State.Inv { s with agenda := ag } :=
  h.congr rfl rfl rfl rfl rfl

/-- The recorded cause is one of 1, 2, 3 (60_exceptions.md R211). -/
theorem Cause.code_range (e : Cause) : e.code ≠ 0 ∧ e.code.toNat ≤ 3 := by
  cases e <;> decide

theorem State.Inv.report {s : State} (h : s.Inv) (e : Cause) : (report e s).Inv where
  busy_not_done := by simpa using h.busy_not_done
  idle_rnd := by simpa using h.idle_rnd
  err_iff := by
    rw [report_err, report_ecause]
    cases herr : s.err with
    | false => exact iff_of_false (by decide) e.code_range.1
    | true => simpa [herr] using h.err_iff
  ecause_le := by
    rw [report_ecause]
    split
    · exact h.ecause_le
    · exact e.code_range.2

theorem State.Inv.clearError {s : State} (h : s.Inv) : (clearError s).Inv where
  busy_not_done := h.busy_not_done
  idle_rnd := h.idle_rnd
  err_iff := iff_of_true rfl rfl
  ecause_le := Nat.zero_le 3

theorem State.Inv.writeKey {s : State} (h : s.Inv) (j : Fin 8) (v : Word) : (writeKey j v s).Inv :=
  h.congr rfl rfl rfl rfl rfl

theorem State.Inv.writeBlk {s : State} (h : s.Inv) (j : Fin 4) (v : Word) : (writeBlk j v s).Inv where
  busy_not_done _ := rfl
  idle_rnd := h.idle_rnd
  err_iff := h.err_iff
  ecause_le := h.ecause_le

/-- While an operation runs with `DONE=0`, `RND` may hold anything. -/
theorem State.Inv.of_running {s t : State} (h : s.Inv) (hbusy : t.busy = true) (hdone : t.done = false)
    (herr : t.err = s.err) (hcause : t.ecause = s.ecause) : t.Inv where
  busy_not_done _ := hdone
  idle_rnd hidle := absurd (hidle.symm.trans hbusy) Bool.false_ne_true
  err_iff := by rw [herr, hcause]; exact h.err_iff
  ecause_le := by rw [hcause]; exact h.ecause_le

/-- The last round step leaves `RND=0`, and may leave `DONE=1` because it clears `BUSY`. -/
theorem State.Inv.finishOp {s : State} (h : s.Inv) (b : Block) : (finishOp { s with st := b }).Inv where
  busy_not_done hbusy := absurd hbusy Bool.false_ne_true
  idle_rnd _ := rfl
  err_iff := h.err_iff
  ecause_le := h.ecause_le

theorem State.Inv.encStep {s : State} (h : s.Inv) (hbusy : s.busy = true) : (encStep s).Inv := by
  by_cases hlast : s.rnd = 15
  · rw [encStep_last hlast]; exact h.finishOp _
  · rw [encStep_mid hlast]; exact h.of_running hbusy (h.busy_not_done hbusy) rfl rfl

theorem State.Inv.decStep {s : State} (h : s.Inv) (hbusy : s.busy = true) : (decStep s).Inv := by
  by_cases hlast : s.rnd = 0
  · rw [decStep_last hlast]; exact h.finishOp _
  · rw [decStep_mid hlast]; exact h.of_running hbusy (h.busy_not_done hbusy) rfl rfl

theorem State.Inv.reset : State.reset.Inv := ⟨by decide, by decide, by decide, by decide⟩

theorem State.Inv.resetRegs (s : State) : (resetRegs s).Inv := State.Inv.reset.withAgenda s.agenda

/-! ## How a step ends -/

theorem State.Inv.of_accept {s t : State} (h : s.Inv) (hnext : accept s = .next t) : t.Inv := by
  cases hnext
  exact h.withRd 0

theorem State.Inv.of_reply {s t : State} {v : Word} (h : s.Inv) (hnext : reply v s = .next t) : t.Inv := by
  cases hnext
  exact h.withRd v

theorem State.Inv.of_raise {s t : State} {e : Cause} (h : s.Inv) (hnext : raise e s = .next t) : t.Inv :=
  (h.report e).of_accept hnext

theorem State.Inv.of_whenIdle {s k t : State} (h : s.Inv) (hk : k.Inv) (hnext : whenIdle s k = .next t) : t.Inv := by
  obtain ⟨-, e⟩ | ⟨-, e⟩ := whenIdle_cases s k
  · exact h.of_raise (e.symm.trans hnext)
  · exact hk.of_accept (e.symm.trans hnext)

/-! ## Instructions, turns and steps -/

theorem State.Inv.of_exec {i : Instr} {s t : State} (h : s.Inv) (hnext : exec i s = .next t) : t.Inv := by
  cases i with
  | ldkey j v => exact h.of_whenIdle (h.writeKey j v) hnext
  | ldblk j v => exact h.of_whenIdle (h.writeBlk j v) hnext
  | enc => exact h.of_whenIdle (k := startEnc s) (h.of_running rfl rfl rfl rfl) hnext
  | dec => exact h.of_whenIdle (k := startDec s) (h.of_running rfl rfl rfl rfl) hnext
  | rdkey | rdblk | rdctrl | rdstat | rdrsv => exact h.of_reply hnext
  | nop => exact h.of_accept hnext
  | clrerr => exact h.clearError.of_accept hnext
  | srst => exact (State.Inv.resetRegs s).of_accept hnext
  | cmd v =>
    obtain ⟨hv, -⟩ := of_exec_cmd hnext
    exact h.of_raise ((exec_cmd hv s).symm.trans hnext)
  | wrstat | wrrsv => exact h.of_raise hnext
  | encround =>
    obtain ⟨hbusy, -, rfl⟩ := of_exec_encround hnext
    exact (h.encStep hbusy).withRd 0
  | decround =>
    obtain ⟨hbusy, -, rfl⟩ := of_exec_decround hnext
    exact (h.decStep hbusy).withRd 0
  | idle =>
    obtain ⟨-, rfl⟩ := of_exec_idle hnext
    exact h.withRd 0

/-- The reset event leads to the invariant from any state. -/
theorem State.Inv.of_resetEvent {s t : State} (hnext : runTurn .reset s = .next t) : t.Inv :=
  (State.Inv.resetRegs s).of_accept hnext

theorem State.Inv.of_runTurn {u : Turn} {s t : State} (h : s.Inv) (hnext : runTurn u s = .next t) : t.Inv := by
  cases u with
  | access a => exact h.of_exec (i := decodeAccess a) hnext
  | ctl => exact h.of_exec (i := ctlInstr s) hnext
  | reset => exact State.Inv.of_resetEvent hnext
  | wait => exact h.of_exec (i := decodeAccess statAccess) hnext

/-- Taking a turn off changes the agenda only. -/
theorem nextTurn_registers (s : State) : ∃ ag, (nextTurn s).2 = { s with agenda := ag } := by
  unfold nextTurn
  split <;> exact ⟨_, rfl⟩

/-- Settles O24: the turn taken off leaves the flags, and the turn keeps the invariant. -/
theorem stepKeepsTheInvariant : Obligations.StepKeepsTheInvariant := by
  intro s t h hstep
  obtain ⟨ag, hregs⟩ := nextTurn_registers s
  rw [step, hregs] at hstep
  exact (h.withAgenda ag).of_runTurn hstep

/-- Settles O25: the reset state itself, and what the reset event leaves. -/
theorem resetMeetsTheInvariant : Obligations.ResetMeetsTheInvariant :=
  ⟨State.Inv.reset, fun _ _ => State.Inv.of_resetEvent⟩

end Sys2Proof.Machine
end

section
/-! What a step runs (20_memory.md R63): every turn completes, the controller's terms that no step meets are refused, and a
step is the meaning of the instruction its turn decodes to. -/

namespace Sys2Proof.Machine

/-! ## Every turn completes -/

theorem exists_next_of_access (a : Access) (s : State) : ∃ t, exec (decodeAccess a) s = .next t := by
  obtain ⟨_ | _, wa, wd⟩ := a
  · exact ⟨_, exec_read wa wd s⟩
  · obtain ⟨hwrite, hnext, -⟩ := hostWritesAreMemWrite wa wd s
    exact ⟨_, hwrite.trans hnext⟩

theorem exists_next_of_runTurn (u : Turn) (s : State) : ∃ t, runTurn u s = .next t := by
  cases u with
  | access a => exact exists_next_of_access a s
  | ctl => exact ⟨_, runTurn_ctl s⟩
  | reset => exact ⟨_, rfl⟩
  | wait => exact exists_next_of_access statAccess s

/-- Settles O23: a step is a turn, and every turn completes. -/
theorem everyStateHasANextState : Obligations.EveryStateHasANextState := fun _ => exists_next_of_runTurn _ _

/-! ## The controller with nothing to do, and the terms that are no step -/

/-- Settles O20: the selectors by evaluation. -/
theorem idleControllerChangesNothing : Obligations.IdleControllerChangesNothing :=
  ⟨rfl, rfl, fun _ hidle => ⟨ctlInstr_idle hidle, exec_idle hidle⟩⟩

theorem exec_encround_refused {s : State} (h : s.busy = false ∨ s.dir = true) :
    exec .encround s = .refused .notSelected := by
  obtain h | h := h <;> simp [exec, execEncround, h]

theorem exec_decround_refused {s : State} (h : s.busy = false ∨ s.dir = false) :
    exec .decround s = .refused .notSelected := by
  obtain h | h := h <;> simp [exec, execDecround, h]

theorem exec_idle_refused {s : State} (h : s.busy = true) : exec .idle s = .refused .notSelected := by
  simp [exec, execIdle, h]

/-- Settles O21: one lemma for each term. -/
theorem termsThatAreNoStepAreRefused : Obligations.TermsThatAreNoStepAreRefused := fun s _ =>
  ⟨exec_encround_refused, exec_decround_refused, exec_idle_refused, (exec_cmd_refused · s)⟩

/-! ## The instruction of a step -/

/-- The controller's turn is the row its selector names (30_encoding.md R89). -/
theorem step_selected {s : State} {rest : List Turn} (h : s.agenda = .ctl :: rest) :
    step s = exec (decodeCtl (selector s)) { s with agenda := rest } := step_ctl h

/-- The same with nothing on the agenda (log 2). -/
theorem step_selected_of_nil {s : State} (h : s.agenda = []) : step s = exec (decodeCtl (selector s)) s := step_nil h

/-- A wait is a poll, and goes on while the value read shows `BUSY=1` (30_encoding.md R100). -/
theorem step_wait {s : State} {rest : List Turn} (h : s.agenda = .wait :: rest) :
    step s = exec .rdstat { s with agenda := if s.busy then .ctl :: .wait :: rest else rest } := by
  simp only [step, nextTurn, h, runTurn, afterPoll, decodeStat_statusWord]
  rfl

/-- A decoded table word is a word of the format its width names. -/
theorem codeWord_of_decodeTableWord {nbits w : Nat} {i : Instr} (h : decodeTableWord nbits w = some i) :
    ∃ c, codeWord (formatOf nbits) w = .ok c ∧ decode c = i := by
  unfold decodeTableWord decodeNat at h
  cases hc : codeWord (formatOf nbits) w with
  | ok c => rw [hc] at h; exact ⟨c, rfl, Option.some_inj.1 h⟩
  | error r => rw [hc] at h; cases h

theorem withFetchWord_of_codeWord {nbits w : Nat} {c : CodeWord} (h : codeWord (formatOf nbits) w = .ok c) (s : State) :
    s.withFetchWord nbits w = placeWord c s := by
  simp only [State.withFetchWord, h]

/-- More than 8 bits hold a transaction word. -/
theorem eq_bus_of_codeWord {nbits w : Nat} {c : CodeWord} (hn : 8 < nbits)
    (h : codeWord (formatOf nbits) w = .ok c) : ∃ t, c = .bus t := by
  rw [formatOf, if_neg (by omega), codeWord] at h
  split at h
  · exact ⟨_, (Except.ok.inj h).symm⟩
  · cases h

/-- At most 8 bits hold a selector: the two low bits of the number. -/
theorem eq_ctl_of_codeWord {nbits w : Nat} {c : CodeWord} (hn : nbits ≤ 8)
    (h : codeWord (formatOf nbits) w = .ok c) : c = .ctl (BitVec.ofNat 2 w) := by
  rw [formatOf, if_pos hn, codeWord] at h
  split at h
  · exact (Except.ok.inj h).symm
  · cases h

/-- A placed transaction word is the next step's instruction. -/
theorem step_placeWord_bus (t : BitVec 37) (s : State) : step (placeWord (.bus t) s) = exec (decodeBus t) s :=
  step_access (a := Access.ofBus t) (rest := s.agenda) rfl

/-- The selector is made of its two bits (30_encoding.md R84). -/
theorem ofBool_append_ofBool (sel : BitVec 2) :
    BitVec.ofBool (sel.getLsbD 1) ++ BitVec.ofBool (sel.getLsbD 0) = sel := by
  revert sel; decide

/-- A placed selector is the next step's instruction. -/
theorem step_placeWord_ctl (sel : BitVec 2) (s : State) :
    step (placeWord (.ctl sel) s) =
      exec (decodeCtl sel) { s with busy := sel.getLsbD 1, dir := sel.getLsbD 0 } := by
  refine (step_ctl (rest := s.agenda) rfl).trans ?_
  rw [runTurn, ctlInstr, selector, placeWord]
  dsimp only
  rw [ofBool_append_ofBool]

theorem step_withFetchWord_bus {nbits w : Nat} {i : Instr} (hn : 8 < nbits) (h : decodeTableWord nbits w = some i)
    (s : State) : step (s.withFetchWord nbits w) = exec i s := by
  obtain ⟨c, hc, rfl⟩ := codeWord_of_decodeTableWord h
  obtain ⟨t, rfl⟩ := eq_bus_of_codeWord hn hc
  rw [withFetchWord_of_codeWord hc]
  exact step_placeWord_bus t s

theorem step_withFetchWord_ctl {nbits w : Nat} {i : Instr} (hn : nbits ≤ 8) (h : decodeTableWord nbits w = some i)
    (s : State) :
    step (s.withFetchWord nbits w) = exec i { s with busy := w.testBit 1, dir := w.testBit 0 } := by
  obtain ⟨c, hc, rfl⟩ := codeWord_of_decodeTableWord h
  obtain rfl := eq_ctl_of_codeWord hn hc
  have hbits : ∀ k < 2, (BitVec.ofNat 2 w).getLsbD k = w.testBit k := fun k hk => by
    rw [BitVec.getLsbD_ofNat, decide_eq_true hk, Bool.true_and]
  rw [withFetchWord_of_codeWord hc, step_placeWord_ctl, hbits 1 (by decide), hbits 0 (by decide)]
  rfl

/-- Settles O22: a lemma for each kind of turn and for each format of a placed word. -/
theorem stepRunsTheDecodedInstruction : Obligations.StepRunsTheDecodedInstruction := fun s _ _ =>
  ⟨step_access rfl, step_selected rfl, step_selected_of_nil rfl, step_wait rfl,
    fun _ _ _ hn h => step_withFetchWord_bus hn h s, fun _ _ _ hn h => step_withFetchWord_ctl hn h s⟩

end Sys2Proof.Machine
end

section
/-! What an instruction can change (10_state.md R20), read off the state it leaves. -/

namespace Sys2Proof.Machine

/-- An instruction whose write no state accepts leaves its record. -/
theorem of_raise {e : Cause} {s t : State} (h : raise e s = .next t) : t = dropped e.code s := by
  rw [raise_eq_dropped] at h
  cases h
  rfl

/-- An instruction whose write may be dropped leaves a dropped write's record or what it writes. -/
theorem of_whenIdle {s k t : State} (h : whenIdle s k = .next t) :
    (s.busy = true ∧ t = dropped 1 s) ∨ (s.busy = false ∧ t = { k with rd := 0 }) := by
  obtain ⟨hbusy, e⟩ | ⟨hidle, e⟩ := whenIdle_cases s k
  · exact .inl ⟨hbusy, of_raise (e.symm.trans h)⟩
  · rw [e, accept_next] at h
    cases h
    exact .inr ⟨hidle, rfl⟩

/-- Settles O28: for each instruction the registers of the state it leaves; a write with `BUSY=1` and with `BUSY=0`, a
round step as the last one and as another. -/
theorem registersChangeOnlyByTheirWriters : Obligations.RegistersChangeOnlyByTheirWriters := by
  intro i s t h
  cases i with
  | ldkey j v =>
    obtain ⟨hb, rfl⟩ | ⟨hb, rfl⟩ := of_whenIdle (k := writeKey j v s) h <;> simp [dropped, hb]
  | ldblk j v =>
    obtain ⟨hb, rfl⟩ | ⟨hb, rfl⟩ := of_whenIdle (k := writeBlk j v s) h <;> simp [dropped, hb]
  | enc => obtain ⟨hb, rfl⟩ | ⟨hb, rfl⟩ := of_whenIdle (k := startEnc s) h <;> simp [dropped, hb]
  | dec => obtain ⟨hb, rfl⟩ | ⟨hb, rfl⟩ := of_whenIdle (k := startDec s) h <;> simp [dropped, hb]
  | cmd v =>
    obtain ⟨-, rfl⟩ := of_exec_cmd h
    simp [dropped]
  | wrstat v =>
    obtain rfl := of_raise (e := .eBadAddr) h
    simp [dropped]
  | wrrsv a0 v =>
    obtain rfl := of_raise (e := .eBadAddr) h
    simp [dropped]
  | encround =>
    obtain ⟨-, -, rfl⟩ := of_exec_encround h
    by_cases hlast : s.rnd = 15
    · simp [hlast]
    · rw [encStep_mid hlast]; simp
  | decround =>
    obtain ⟨-, -, rfl⟩ := of_exec_decround h
    by_cases hlast : s.rnd = 0
    · simp [hlast]
    · rw [decStep_mid hlast]; simp
  | idle =>
    obtain ⟨-, rfl⟩ := of_exec_idle h
    simp
  | rdkey | rdblk | rdctrl | rdstat | rdrsv => cases h; simp [Instr.isRead]
  | nop | clrerr => cases h; simp
  | srst => cases h; simp

end Sys2Proof.Machine
end

section
/-! Two runs of one instruction from states that differ in registers it does not show (10_state.md R22, R27, R35,
60_exceptions.md R215). -/

namespace Sys2Proof.Machine

/-- `R` relates what each shared operation leaves of `s` and of `s'`. Of the writes only what an idle core accepts is
asked for; the value of a status read is left to the instruction that makes it. -/
structure RelatedAfter (R : State → State → Prop) (s s' : State) : Prop where
  busy : s'.busy = s.busy
  drop : ∀ e, R (dropped e s) (dropped e s')
  zero : R { s with rd := 0 } { s' with rd := 0 }
  block : ∀ j, R { s with rd := readBlk j s } { s' with rd := readBlk j s' }
  clear : R { clearError s with rd := 0 } { clearError s' with rd := 0 }
  reset : R (resetRegs s) (resetRegs s')
  key : s.busy = false → ∀ j v, R { writeKey j v s with rd := 0 } { writeKey j v s' with rd := 0 }
  blk : s.busy = false → ∀ j v, R { writeBlk j v s with rd := 0 } { writeBlk j v s' with rd := 0 }
  enc : s.busy = false → R { startEnc s with rd := 0 } { startEnc s' with rd := 0 }
  dec : s.busy = false → R { startDec s with rd := 0 } { startDec s' with rd := 0 }

section
variable {R : State → State → Prop} {s s' t : State}

theorem RelatedAfter.of_whenIdle (h : RelatedAfter R s s') {k k' : State}
    (hk : s.busy = false → R { k with rd := 0 } { k' with rd := 0 }) (hnext : whenIdle s k = .next t) :
    ∃ t', whenIdle s' k' = .next t' ∧ R t t' := by
  obtain ⟨hbusy, rfl⟩ | ⟨hidle, rfl⟩ := Machine.of_whenIdle hnext
  · exact ⟨_, whenIdle_dropped k' (h.busy.trans hbusy), h.drop 1⟩
  · exact ⟨_, whenIdle_idle k' (h.busy.trans hidle), hk hidle⟩

theorem RelatedAfter.of_raise (h : RelatedAfter R s s') {e : Cause} (hnext : raise e s = .next t) :
    ∃ t', raise e s' = .next t' ∧ R t t' := by
  obtain rfl := Machine.of_raise hnext
  exact ⟨_, raise_eq_dropped e s', h.drop e.code⟩

/-- Every instruction of a host access is made of those operations. -/
theorem RelatedAfter.of_exec (h : RelatedAfter R s s') {i : Instr}
    (hhost : i ≠ .encround ∧ i ≠ .decround ∧ i ≠ .idle)
    (hstatus : i = .rdstat → R { s with rd := statusWord s } { s' with rd := statusWord s' })
    (hnext : exec i s = .next t) : ∃ t', exec i s' = .next t' ∧ R t t' := by
  obtain ⟨hencround, hdecround, hidle⟩ := hhost
  cases i with
  | ldkey j v => exact h.of_whenIdle (h.key · j v) hnext
  | ldblk j v => exact h.of_whenIdle (h.blk · j v) hnext
  | enc => exact h.of_whenIdle h.enc hnext
  | dec => exact h.of_whenIdle h.dec hnext
  | cmd v =>
    obtain ⟨hv, -⟩ := of_exec_cmd hnext
    rw [exec_cmd hv] at hnext ⊢
    exact h.of_raise hnext
  | wrstat | wrrsv => exact h.of_raise hnext
  | rdkey | nop | rdctrl | rdrsv => cases hnext; exact ⟨_, rfl, h.zero⟩
  | rdblk j => cases hnext; exact ⟨_, rfl, h.block j⟩
  | clrerr => cases hnext; exact ⟨_, rfl, h.clear⟩
  | srst => cases hnext; exact ⟨_, rfl, h.reset⟩
  | rdstat => cases hnext; exact ⟨_, rfl, hstatus rfl⟩
  | encround => exact absurd rfl hencround
  | decround => exact absurd rfl hdecround
  | idle => exact absurd rfl hidle

end

/-! ## The key (10_state.md R22) -/

/-- The states differ in `KEY` alone. -/
def EqButKey (t t' : State) : Prop := { t' with key := t.key } = t

theorem EqButKey.rd {t t' : State} (h : EqButKey t t') : t'.rd = t.rd := by
  unfold EqButKey at h
  have hrd := congrArg State.rd h
  exact hrd

theorem relatedAfter_withKey (s : State) (k : Key) : RelatedAfter EqButKey s { s with key := k } where
  busy := rfl
  drop _ := rfl
  zero := rfl
  block _ := rfl
  clear := rfl
  reset := rfl
  key _ _ _ := rfl
  blk _ _ _ := rfl
  enc _ := rfl
  dec _ := rfl

/-- Settles O31: the status word does not hold the key either. -/
theorem noAccessShowsTheKey : Obligations.NoAccessShowsTheKey := by
  intro a s t k hnext
  obtain ⟨t', hnext', heq⟩ := (relatedAfter_withKey s k).of_exec (decodeAccess_ne_ctl a) (fun _ => rfl) hnext
  exact ⟨t', hnext', heq.rd, heq⟩

/-! ## A running operation (10_state.md R35 (c)) -/

/-- The states differ in `ST`, `KEY` and `RND` alone. -/
def EqButOperation (t t' : State) : Prop := { t' with st := t.st, key := t.key, rnd := t.rnd } = t

theorem EqButOperation.rd {t t' : State} (h : EqButOperation t t') : t'.rd = t.rd := by
  unfold EqButOperation at h
  have hrd := congrArg State.rd h
  exact hrd

/-- A busy core accepts no write, and reads the block as 0. -/
theorem relatedAfter_withOperation {s : State} (hbusy : s.busy = true) (b : Block) (k : Key) (r : Fin 16) :
    RelatedAfter EqButOperation s { s with st := b, key := k, rnd := r } where
  busy := rfl
  drop _ := rfl
  zero := rfl
  block j := by simp [EqButOperation, readBlk, hbusy]
  clear := rfl
  reset := rfl
  key hidle := absurd (hidle.symm.trans hbusy) Bool.false_ne_true
  blk hidle := absurd (hidle.symm.trans hbusy) Bool.false_ne_true
  enc hidle := absurd (hidle.symm.trans hbusy) Bool.false_ne_true
  dec hidle := absurd (hidle.symm.trans hbusy) Bool.false_ne_true

/-- Settles O32: the status word holds none of the three. -/
theorem noAccessShowsARunningOperation : Obligations.NoAccessShowsARunningOperation := by
  intro a s t b k r hbusy hnext
  obtain ⟨t', hnext', heq⟩ :=
    (relatedAfter_withOperation hbusy b k r).of_exec (decodeAccess_ne_ctl a) (fun _ => rfl) hnext
  exact ⟨t', hnext', heq.rd, heq⟩

/-! ## The error record (60_exceptions.md R215) -/

/-- After the instruction `i` the states differ in `ERR` and `ECAUSE` alone, and after a status read in its value. -/
def EqButErrors (i : Instr) (t t' : State) : Prop :=
  { t' with err := t.err, ecause := t.ecause, rd := t.rd } = t ∧ (i ≠ .rdstat → t'.rd = t.rd)

theorem relatedAfter_withErrors (i : Instr) (s : State) (e : Bool) (c : BitVec 3) :
    RelatedAfter (EqButErrors i) s { s with err := e, ecause := c } where
  busy := rfl
  drop _ := ⟨rfl, fun _ => rfl⟩
  zero := ⟨rfl, fun _ => rfl⟩
  block _ := ⟨rfl, fun _ => rfl⟩
  clear := ⟨rfl, fun _ => rfl⟩
  reset := ⟨rfl, fun _ => rfl⟩
  key _ _ _ := ⟨rfl, fun _ => rfl⟩
  blk _ _ _ := ⟨rfl, fun _ => rfl⟩
  enc _ := ⟨rfl, fun _ => rfl⟩
  dec _ := ⟨rfl, fun _ => rfl⟩

theorem encStep_withErrors (s : State) (e : Bool) (c : BitVec 3) :
    encStep { s with err := e, ecause := c } = { encStep s with err := e, ecause := c } := by
  simp only [encStep]; split <;> rfl

theorem decStep_withErrors (s : State) (e : Bool) (c : BitVec 3) :
    decStep { s with err := e, ecause := c } = { decStep s with err := e, ecause := c } := by
  simp only [decStep]; split <;> rfl

/-- Settles O30: the host's instructions by what their operations leave, the controller's rows by their selector, which
holds no error. -/
theorem errorsDoNotInhibit : Obligations.ErrorsDoNotInhibit := by
  intro i s t e c hnext
  cases i with
  | encround =>
    obtain ⟨hbusy, hdir, rfl⟩ := of_exec_encround hnext
    refine ⟨_, exec_encround hbusy hdir, ?_⟩
    rw [encStep_withErrors]
    simp
  | decround =>
    obtain ⟨hbusy, hdir, rfl⟩ := of_exec_decround hnext
    refine ⟨_, exec_decround hbusy hdir, ?_⟩
    rw [decStep_withErrors]
    simp
  | idle =>
    obtain ⟨hidle, rfl⟩ := of_exec_idle hnext
    exact ⟨_, exec_idle hidle, rfl, fun _ => rfl⟩
  | _ => exact (relatedAfter_withErrors _ s e c).of_exec (by simp) (fun h => ⟨rfl, (absurd h ·)⟩) hnext

end Sys2Proof.Machine
end

section
/-! An access repeated at once (20_memory.md R60), and accesses to a busy core (R65). -/

namespace Sys2Proof.Machine

/-- A second error leaves no trace (60_exceptions.md R212). -/
theorem dropped_dropped (e e' : BitVec 3) (s : State) : dropped e' (dropped e s) = dropped e s := rfl

theorem raise_again {e : Cause} {s t : State} (h : raise e s = .next t) : raise e t = .next t := by
  obtain rfl := of_raise h
  rw [raise_eq_dropped, dropped_dropped]

/-- A write that leaves `BUSY` alone and is idempotent as a function is idempotent as an access. -/
theorem whenIdle_again {f : State → State} {s t : State} (hbusy : ({ f s with rd := 0 } : State).busy = s.busy)
    (hf : ({ f { f s with rd := 0 } with rd := 0 } : State) = { f s with rd := 0 })
    (h : whenIdle s (f s) = .next t) : whenIdle t (f t) = .next t := by
  obtain ⟨hb, rfl⟩ | ⟨hidle, rfl⟩ := of_whenIdle h
  · exact whenIdle_dropped _ hb
  · rw [whenIdle_idle _ (hbusy.trans hidle), accept_next, hf]

/-- A write that a busy core drops is dropped again. -/
theorem whenIdle_again_of_busy {s k t : State} (k' : State) (hbusy : s.busy = true) (h : whenIdle s k = .next t) :
    whenIdle t k' = .next t := by
  cases (whenIdle_dropped k hbusy).symm.trans h
  exact whenIdle_dropped k' hbusy

/-- An accepted start that is repeated finds the core busy, and records an error. -/
theorem started_again_ne {s k t : State} (k' : State) (hidle : s.busy = false) (hstarted : k.busy = true)
    (herr : k.err = false) (h : whenIdle s k = .next t) : whenIdle t k' ≠ .next t := by
  cases (whenIdle_idle k hidle).symm.trans h
  intro hsame
  have hdropped := (whenIdle_dropped (s := { k with rd := 0 }) k' hstarted).symm.trans hsame
  have herr' : true = k.err := congrArg State.err (Host.Outcome.next.inj hdropped)
  exact Bool.false_ne_true (herr.symm.trans herr'.symm)

/-- Settles O33: writes by the writes they make, dropped ones by the record, reads because they change nothing. -/
theorem accessesAreIdempotentButForStarts : Obligations.AccessesAreIdempotentButForStarts := by
  refine ⟨fun i s t hencround hdecround hstart h => ?_, fun s t hidle herr =>
    ⟨started_again_ne (k := startEnc s) (startEnc t) hidle rfl herr,
      started_again_ne (k := startDec s) (startDec t) hidle rfl herr⟩⟩
  cases i with
  | ldkey j v => exact whenIdle_again (f := writeKey j v) rfl (by simp [writeKey]) h
  | ldblk j v => exact whenIdle_again (f := writeBlk j v) rfl (by simp [writeBlk]) h
  | enc => exact whenIdle_again_of_busy (startEnc t) (hstart (.inl rfl)) h
  | dec => exact whenIdle_again_of_busy (startDec t) (hstart (.inr rfl)) h
  | cmd v =>
    obtain ⟨hv, -⟩ := of_exec_cmd h
    rw [exec_cmd hv] at h ⊢
    exact raise_again h
  | wrstat | wrrsv => exact raise_again h
  | rdkey | rdblk | nop | clrerr | srst | rdctrl | rdstat | rdrsv => cases h; rfl
  | encround => exact absurd rfl hencround
  | decround => exact absurd rfl hdecround
  | idle =>
    obtain ⟨hidle, rfl⟩ := of_exec_idle h
    exact exec_idle hidle

/-- Settles O34: what an access leaves of a busy core. -/
theorem accessesLeaveARunningOperationAlone : Obligations.AccessesLeaveARunningOperationAlone := by
  intro a s hbusy hsrst
  obtain ⟨err, ecause, rd, hnext⟩ := exec_access_of_busy hbusy hsrst
  exact ⟨_, hnext, rfl⟩

end Sys2Proof.Machine
end

section
/-! Which words the functions of a round depend on: the mix layer's fourth update (43_mix_layers.md R154), the subkeys and
the rounds on the key (41_key_schedule.md R134, 10_state.md R23). -/

namespace Sys2Proof.Machine

/-! ## Words that an XOR or a rotation keeps apart -/

theorem xor32_eq_left_iff (a b : Word) : xor32 a b = a ↔ b = 0 :=
  calc xor32 a b = a ↔ xor32 a b = xor32 a 0 := by rw [xor32_zero]
    _ ↔ b = 0 := BitVec.xor_right_inj a

theorem xor32_left_inj (a b c : Word) : xor32 a c = xor32 b c ↔ a = b :=
  BitVec.xor_left_inj c

theorem rotl32_inj (x y : Word) (n : Nat) : rotl32 x n = rotl32 y n ↔ x = y :=
  Function.LeftInverse.injective (g := (rotr32 · n)) (f := (rotl32 · n)) (rotr32_rotl32 · n) |>.eq_iff

theorem rotl32_eq_zero_iff (x : Word) (n : Nat) : rotl32 x n = 0 ↔ x = 0 := by
  have hzero : rotl32 0 n = 0 := word_ext fun p hp => by simp [rotl32_getLsbD _ _ hp]
  rw [← rotl32_inj x 0 n, hzero]

/-- Settles O41: the new word 0 brings a rotated word 1 into the fourth update, and nothing else. -/
theorem mixReadsTheNewWordZero : Obligations.MixReadsTheNewWordZero := by
  intro s
  rw [mix_closed]
  exact not_congr ((xor32_eq_left_iff _ _).trans (rotl32_eq_zero_iff _ _))

/-! ## The key words of a subkey and of a round -/

/-- A subkey shows the one key word it is made of. -/
theorem subkey_eq_iff (p : Config.Params) (key key' : Key) (r : Fin 16) (i : Fin 4) :
    subkey p key r i = subkey p key' r i ↔ key.get (kidx r i) = key'.get (kidx r i) :=
  (rotl32_inj _ _ _).trans (xor32_left_inj _ _ _)

/-- Settles O43: the subkey by the key word it shows; the count by going through the 64 pairs. -/
theorem keyWordsReachTheirSubkeys : Obligations.KeyWordsReachTheirSubkeys := by
  refine ⟨fun p key j v r i hv => ?_, by decide⟩
  rw [ne_eq, subkey_eq_iff, Key.get_set]
  split
  next hused => exact iff_of_true (by rw [hused]; exact hv) hused
  next hunused => exact iff_of_false (not_not_intro rfl) hunused

/-- Settles O44: a round reads the key through its four subkeys. -/
theorem aRoundReadsFourKeyWords : Obligations.ARoundReadsFourKeyWords := by
  intro p s key key' r hkey
  have hsub : subkey p key r = subkey p key' r := funext fun i => (subkey_eq_iff p key key' r i).2 (hkey i)
  exact ⟨by rw [encRound, rfAll, hsub]; rfl, by rw [decRound, irfAll, hsub]; rfl⟩

end Sys2Proof.Machine
end

section
/-! Decryption and encryption undo each other (44_round_controller.md R171), for every value of the constants: word by word,
round by round, and so for sixteen rounds in the opposite order. -/

namespace Sys2Proof.Machine

/-! ## One round -/

theorem irfAll_rfAll (p : Config.Params) (s : Block) (key : Key) (r : Fin 16) : irfAll p (rfAll p s key r) key r = s :=
  Block.ext_get fun i => by simp only [irfAll, rfAll, Block.get_ofFn, irf_rf]

theorem rfAll_irfAll (p : Config.Params) (s : Block) (key : Key) (r : Fin 16) : rfAll p (irfAll p s key r) key r = s :=
  Block.ext_get fun i => by simp only [irfAll, rfAll, Block.get_ofFn, rf_irf]

@[simp] theorem decRound_encRound (p : Config.Params) (s : Block) (key : Key) (r : Fin 16) :
    decRound p (encRound p s key r) key r = s := by
  rw [decRound, encRound, imix_mix, irfAll_rfAll]

@[simp] theorem encRound_decRound (p : Config.Params) (s : Block) (key : Key) (r : Fin 16) :
    encRound p (decRound p s key r) key r = s := by
  rw [decRound, encRound, rfAll_irfAll, mix_imix]

/-! ## Sixteen rounds -/

/-- `n` rounds of decryption take back the last `n` of sixteen rounds of encryption. -/
theorem decRounds_encrypt (p : Config.Params) (b : Block) (key : Key) {n m : Nat} (h : n + m = 16) :
    decRounds p (encrypt p b key) key n = encRounds p b key m := by
  induction n generalizing m with
  | zero =>
    obtain rfl : m = 16 := by omega
    rfl
  | succ n ih =>
    have hr : Config.nr - 1 - n = m := by simp only [Config.nr]; omega
    rw [decRounds, hr, ih (m := m + 1) (by omega), encRounds, decRound_encRound]

/-- `n` rounds of encryption take back the last `n` of sixteen rounds of decryption. -/
theorem encRounds_decrypt (p : Config.Params) (c : Block) (key : Key) {n m : Nat} (h : n + m = 16) :
    encRounds p (decrypt p c key) key n = decRounds p c key m := by
  induction n generalizing m with
  | zero =>
    obtain rfl : m = 16 := by omega
    rfl
  | succ n ih =>
    have hr : Config.nr - 1 - m = n := by simp only [Config.nr]; omega
    rw [encRounds, ih (m := m + 1) (by omega), decRounds, hr, encRound_decRound]

theorem decrypt_encrypt (p : Config.Params) (b : Block) (key : Key) : decrypt p (encrypt p b key) key = b :=
  decRounds_encrypt p b key (n := 16) (m := 0) rfl

theorem encrypt_decrypt (p : Config.Params) (c : Block) (key : Key) : encrypt p (decrypt p c key) key = c :=
  encRounds_decrypt p c key (n := 16) (m := 0) rfl

/-- Settles O45: nothing about the constants is used. -/
theorem decryptUndoesEncrypt : Obligations.DecryptUndoesEncrypt := fun p b key =>
  ⟨fun r => ⟨decRound_encRound p b key r, encRound_decRound p b key r⟩, decrypt_encrypt p b key,
    encrypt_decrypt p b key⟩

end Sys2Proof.Machine
end

section
/-! Blocks and keys as bytes (20_memory.md R51, R52): the byte-addressed view of the block (R59), and the operations on
bytes with the lengths they are defined for (60_exceptions.md R226). -/

namespace Sys2Proof

theorem Block.getD_toList (b : Block) (i : Fin 4) : b.toList.getD i.val 0 = b.get i := by
  fin_cases i <;> rfl

theorem Block.ofList_toList (b : Block) : Block.ofList b.toList = some b := rfl

/-- Four words are a block, and the block holds them. -/
theorem Block.exists_of_length {l : List Word} (h : l.length = 4) : ∃ b, Block.ofList l = some b ∧ b.toList = l := by
  match l, h with
  | [a, b, c, d], _ => exact ⟨⟨a, b, c, d⟩, rfl, rfl⟩

/-- Eight words are a key. -/
theorem Key.exists_of_length {l : List Word} (h : l.length = 8) : ∃ k, Key.ofList l = some k := by
  match l, h with
  | [a, b, c, d, e, f, g, k], _ => exact ⟨⟨a, b, c, d, e, f, g, k⟩, rfl⟩

namespace Machine

/-! ## The byte-addressed view -/

/-- `wa = off[5:2]`, lane `off[1:0]` (R59). -/
theorem windowOf_base_add {off : Nat} (h : off < 64) :
    windowOf (Config.base + off) = some (BitVec.ofNat 4 (off / 4), ⟨off % 4, Nat.mod_lt _ (by decide)⟩) := by
  rw [windowOf, if_pos ⟨Nat.le_add_right _ _, Nat.add_lt_add_left h _⟩]
  simp only [Nat.add_sub_cancel_left]

theorem windowOf_outside {addr : Nat} (h : addr < Config.base ∨ Config.base + 64 ≤ addr) : windowOf addr = none :=
  if_neg (by simp only [Config.windowBytes]; omega)

theorem readBlk_idle {s : State} (hidle : s.busy = false) (j : Fin 4) : readBlk j s = s.st.get j := by
  rw [readBlk, hidle]
  rfl

/-- Byte `n` of the block is byte `n mod 4` of word `n div 4`. -/
theorem getD_block_bytes (b : Block) {n : Nat} (h : n < 16) :
    (wordsToBytes b.toList).getD n 0 = byteOf (b.get ⟨n / 4, by omega⟩) (n % 4) := by
  rw [getD_wordsToBytes, ← Block.getD_toList]

/-- The byte at offset `0x20 + n` of the window. -/
theorem laneOf_windowRead_block {s : State} (hidle : s.busy = false) {n : Nat} (h : n < 16) :
    laneOf (windowRead (BitVec.ofNat 4 ((0x20 + n) / 4)) s) ⟨(0x20 + n) % 4, Nat.mod_lt _ (by decide)⟩ =
      (wordsToBytes s.st.toList).getD n 0 := by
  have hwa : (BitVec.ofNat 4 ((0x20 + n) / 4)).toNat = 8 + n / 4 := by
    rw [BitVec.toNat_ofNat]
    omega
  have hlane : (0x20 + n) % 4 = n % 4 := by omega
  rw [windowRead_blk ⟨n / 4, by omega⟩ hwa, readBlk_idle hidle, getD_block_bytes s.st h]
  simp only [laneOf, hlane]

/-- Settles O48: word address and lane as quotient and remainder of the offset, whatever `BASE` is. -/
theorem blockBytesLieAtTheirOffsets : Obligations.BlockBytesLieAtTheirOffsets := by
  refine ⟨fun n s hn hidle => ⟨_, _, ?_, laneOf_windowRead_block hidle hn⟩,
    fun off hoff => ⟨_, _, windowOf_base_add hoff, ?_⟩, fun _ => windowOf_outside⟩
  · rw [Nat.add_assoc]
    exact windowOf_base_add (by omega)
  · rw [BitVec.toNat_ofNat]
    dsimp only
    omega

/-! ## The operations on bytes -/

/-- Sixteen bytes are a block, and the block gives them back. -/
theorem exists_blockOfBytes {b : List Byte} (h : b.length = 16) :
    ∃ blk, blockOfBytes b = some blk ∧ wordsToBytes blk.toList = b := by
  obtain ⟨blk, hsome, hlist⟩ := Block.exists_of_length (l := bytesToWords b) (by rw [length_bytesToWords, h])
  exact ⟨blk, (if_pos h).trans hsome, by rw [hlist, wordsToBytes_bytesToWords b (by omega)]⟩

theorem exists_keyOfBytes {k : List Byte} (h : k.length = 32) : ∃ key, keyOfBytes k = some key := by
  obtain ⟨key, hsome⟩ := Key.exists_of_length (l := bytesToWords k) (by rw [length_bytesToWords, h])
  exact ⟨key, (if_pos h).trans hsome⟩

theorem length_block_bytes (b : Block) : (wordsToBytes b.toList).length = 16 := length_wordsToBytes _

/-- The bytes of a block are read back as the block. -/
theorem blockOfBytes_block_bytes (b : Block) : blockOfBytes (wordsToBytes b.toList) = some b := by
  rw [blockOfBytes, if_pos (length_block_bytes b), bytesToWords_wordsToBytes, Block.ofList_toList]

/-- Settles O49: the round trip on blocks, between the two conversions. -/
theorem byteLevelRoundTrip : Obligations.ByteLevelRoundTrip := by
  refine ⟨fun b k hb hk => ?_, fun b k h => ?_⟩
  · obtain ⟨blk, hblk, hbytes⟩ := exists_blockOfBytes hb
    obtain ⟨key, hkey⟩ := exists_keyOfBytes hk
    refine ⟨wordsToBytes (encrypt params blk key).toList, ?_, length_block_bytes _, ?_⟩
    · simp only [encryptBytes, hblk, hkey]
    · simp only [decryptBytes, blockOfBytes_block_bytes, hkey, decrypt_encrypt, hbytes]
  · obtain h | h := h
    · simp [encryptBytes, decryptBytes, blockOfBytes, h]
    · simp [encryptBytes, decryptBytes, keyOfBytes, h]

end Machine

end Sys2Proof
end

section
/-! The outputs of a clock cycle (20_memory.md R67, 10_state.md R38). -/

namespace Sys2Proof.Machine

section
variable {p : PortIn} {e : Bool} {s : State}

theorem portOut_rd_of_read (hsel : p.sel = true) (hwe : p.we = false) : (portOut p s).rd = windowRead p.wa s := by
  simp [portOut, hsel, hwe]

theorem portOut_rd_of_no_read (h : p.sel = false ∨ p.we = true) : (portOut p s).rd = 0 := by
  obtain h | h := h <;> simp [portOut, h]

/-- A write does not decode to a read. -/
theorem decodeAccess_write_isRead (wa : BitVec 4) (wd : Word) : (decodeAccess ⟨true, wa, wd⟩).isRead = false := by
  obtain ⟨j, rfl⟩ | ⟨j, rfl⟩ | rfl | rfl | ⟨j, rfl⟩ := wa_cases wa
  · rw [decodeAccess_key]; rfl
  · rw [decodeAccess_blk]; rfl
  · obtain rfl | rfl | rfl | rfl | rfl | hv := command_cases wd
    case inr.inr.inr.inr.inr => rw [decodeAccess_ctrl, if_pos rfl, decodeCommand_illegal hv]; rfl
    all_goals rfl
  · rfl
  · rw [decodeAccess_rsv]; rfl

/-- A write leaves no read data. -/
theorem rd_of_write {wa : BitVec 4} {wd : Word} {t : State} (h : exec (decodeAccess ⟨true, wa, wd⟩) s = .next t) :
    t.rd = 0 := by
  obtain ⟨-, -, -, -, -, -, -, hread, -⟩ := registersChangeOnlyByTheirWriters _ s t h
  by_contra hrd
  exact Bool.false_ne_true ((decodeAccess_write_isRead wa wd).symm.trans (hread hrd))

/-- A cycle with an access and no round step leaves in `rd` what the port shows (log 4). -/
theorem clockCycle_access_rd (hrst : p.rst = false) (hsel : p.sel = true) (hround : (e && s.busy) = false) :
    ∃ t, clockCycle p e s = .next t ∧ t.rd = (portOut p s).rd := by
  rw [clockCycle_access hrst hsel hround]
  cases hwe : p.we with
  | false => exact ⟨_, exec_read p.wa p.wd s, (portOut_rd_of_read hsel hwe).symm⟩
  | true =>
    obtain ⟨t, hnext⟩ := exists_next_of_access ⟨true, p.wa, p.wd⟩ s
    exact ⟨t, hnext, (rd_of_write hnext).trans (portOut_rd_of_no_read (.inr hwe)).symm⟩

/-- A cycle with neither event. -/
theorem clockCycle_none (hrst : p.rst = false) (hsel : p.sel = false) (hround : (e && s.busy) = false) :
    clockCycle p e s = .next s := by
  simp [clockCycle, cycleTurns, hrst, hsel, hround, runTurns]

end

/-- Settles O60: reads, the cycles without one, and the two kinds of cycle that end no round. -/
theorem portOutputsAreTheReads : Obligations.PortOutputsAreTheReads := fun p _ s =>
  ⟨fun _ hsel hwe => by rw [memRead_wordAddress, portOut_rd_of_read hsel hwe], portOut_rd_of_no_read,
    fun _ => rfl, rfl, rfl,
    fun hrst hsel hone => clockCycle_access_rd hrst hsel (Bool.and_eq_false_iff.mpr hone),
    fun hrst hsel hone => clockCycle_none hrst hsel (Bool.and_eq_false_iff.mpr hone)⟩

end Sys2Proof.Machine
end

section
/-! The rounds of a running operation, counted (10_state.md R37 (d)), and operations with nothing but the controller's turns
in them, which leave the error record as it was (44_round_controller.md R171). -/

namespace Sys2Proof.Machine

/-! ## After a start and some of the rounds -/

theorem wait_not_mem_of_quiet {ts : List Turn} (hquiet : ∀ u ∈ ts, u.quiet = true) : .wait ∉ ts := fun hmem =>
  Bool.false_ne_true (hquiet .wait hmem)

/-- The start and quiet turns with at most fifteen round steps among them: the operation goes on. -/
theorem run_started {dir : Bool} {b : Block} {k : Key} {start : Access} {s s' : State} {ts : List Turn}
    (rest : List Turn) (hstart : runTurn (.access start) s = .next s') (hrunning : Running dir b k 0 s')
    (hquiet : ∀ u ∈ ts, u.quiet = true) (hcount : ts.count .ctl ≤ 15) :
    ∃ t, core.run (1 + ts.length) { s with agenda := .access start :: (ts ++ rest) } = .next t ∧
      Running dir b k (ts.count .ctl) t ∧ t.agenda = rest := by
  obtain ⟨t, hturns, h⟩ := hrunning.quietTurns hquiet (by omega)
  have hwait : .wait ∉ .access start :: ts := List.not_mem_cons_of_ne_of_not_mem (by simp) (wait_not_mem_of_quiet hquiet)
  have hrun := run_of_runTurns rest hwait ((runTurns_cons hstart ts).trans hturns)
  rw [Nat.zero_add] at h
  rw [Nat.add_comm 1]
  exact ⟨_, hrun, ⟨h.st, h.key, h.rnd, h.dir, h.busy, h.done⟩, rfl⟩

theorem roundIndex_false_val {n : Nat} (h : n ≤ 15) : (roundIndex false n).val = n :=
  Nat.mod_eq_of_lt (show n < 16 by omega)

theorem roundIndex_true_val (n : Nat) : (roundIndex true n).val = 15 - n :=
  Nat.mod_eq_of_lt (show 15 - n < 16 by omega)

/-- Settles O50: `RND` counts up from 0 or down from 15. -/
theorem aRunningOperationCountsItsRounds : Obligations.ARunningOperationCountsItsRounds := by
  intro s ts rest hidle hquiet hcount
  obtain ⟨s₁, henc, hrunning₁⟩ := running_of_enc hidle
  obtain ⟨t₁, hrun₁, h₁, hagenda₁⟩ := run_started rest henc hrunning₁ hquiet hcount
  obtain ⟨s₂, hdec, hrunning₂⟩ := running_of_dec hidle
  obtain ⟨t₂, hrun₂, h₂, hagenda₂⟩ := run_started rest hdec hrunning₂ hquiet hcount
  have hrnd₁ : t₁.rnd.val = ts.count .ctl := by rw [h₁.rnd, roundIndex_false_val hcount]
  have hrnd₂ : t₂.rnd.val = 15 - ts.count .ctl := by rw [h₂.rnd, roundIndex_true_val]
  exact ⟨⟨t₁, hrun₁, h₁.busy, h₁.done, h₁.dir, hrnd₁, h₁.key, h₁.st, hagenda₁⟩,
    ⟨t₂, hrun₂, h₂.busy, h₂.done, h₂.dir, hrnd₂, h₂.key, h₂.st, hagenda₂⟩⟩

/-! ## The error record -/

/-- What `CLRERR` clears (10_state.md R30). -/
def errorRecord (s : State) : Bool × BitVec 3 := (s.err, s.ecause)

/-- The controller never touches it (44_round_controller.md R173). -/
theorem errorRecord_of_ctl {s t : State} (h : runTurn .ctl s = .next t) : errorRecord t = errorRecord s := by
  rw [runTurn_ctl, accept_next] at h
  cases h
  cases s.busy with
  | false => rfl
  | true =>
    cases s.dir with
    | false => exact Prod.ext (encStep_err s) (encStep_ecause s)
    | true => exact Prod.ext (decStep_err s) (decStep_ecause s)

/-- The turn starts the operation `dir` in every idle state, and raises no error there. -/
def Starts (start : Turn) (dir : Bool) : Prop :=
  ∀ s : State, s.busy = false →
    ∃ t, runTurn start s = .next t ∧ Running dir s.st s.key 0 t ∧ errorRecord t = errorRecord s

theorem starts_enc : Starts (turnOf 0x1C00000001) false := fun s hidle =>
  ⟨{ startEnc s with rd := 0 }, whenIdle_idle (startEnc s) hidle, ⟨rfl, rfl, rfl, rfl, rfl, rfl⟩, rfl⟩

theorem starts_dec : Starts (turnOf 0x1C00000002) true := fun s hidle =>
  ⟨{ startDec s with rd := 0 }, whenIdle_idle (startDec s) hidle, ⟨rfl, rfl, rfl, rfl, rfl, rfl⟩, rfl⟩

/-! ## A start and sixteen round steps -/

section
variable {dir : Bool} {b : Block} {k : Key} {n : Nat} {s : State}

/-- The round steps left end the operation. -/
theorem Running.remainingRounds (h : Running dir b k n s) {m : Nat} (hnm : n + m = 15) :
    ∃ t, runTurns (List.replicate (m + 1) .ctl) s = .next t ∧ Completed dir b k t ∧
      errorRecord t = errorRecord s := by
  induction m generalizing n s with
  | zero =>
    obtain rfl : n = 15 := hnm
    obtain ⟨t, hturn, hdone⟩ := h.lastRound
    exact ⟨t, (runTurns_one _ _).trans hturn, hdone, errorRecord_of_ctl hturn⟩
  | succ m ih =>
    obtain ⟨u, hturn, hu⟩ := h.round (by omega)
    obtain ⟨t, hturns, hdone, herr⟩ := ih hu (by omega)
    exact ⟨t, (runTurns_cons hturn _).trans hturns, hdone, herr.trans (errorRecord_of_ctl hturn)⟩

theorem Starts.sixteenRounds {start : Turn} (hstart : Starts start dir) (hidle : s.busy = false) :
    ∃ t, runTurns (start :: List.replicate 16 .ctl) s = .next t ∧ Completed dir s.st s.key t ∧
      errorRecord t = errorRecord s := by
  obtain ⟨u, hturn, hrunning, herr⟩ := hstart s hidle
  obtain ⟨t, hturns, hdone, herr'⟩ := hrunning.remainingRounds (m := 15) rfl
  exact ⟨t, (runTurns_cons hturn _).trans hturns, hdone, herr'.trans herr⟩

end

/-- The turns of `ENC; STEP 16; DEC; STEP 16`. -/
theorem scriptTurns_enc_dec : scriptTurns [.enc, .step 16, .dec, .step 16] =
    (turnOf 0x1C00000001 :: List.replicate 16 .ctl) ++ (turnOf 0x1C00000002 :: List.replicate 16 .ctl) := rfl

/-- Settles O53: two whole operations, and `DECRYPT(ENCRYPT(b)) = b`. -/
theorem encThenDecRestoresTheBlock : Obligations.EncThenDecRestoresTheBlock := by
  intro s rest hidle
  obtain ⟨u, henc, hu, herr⟩ := starts_enc.sixteenRounds hidle
  obtain ⟨t, hdec, ht, herr'⟩ := starts_dec.sixteenRounds hu.busy
  have hturns : runTurns (scriptTurns [.enc, .step 16, .dec, .step 16]) s = .next t := by
    rw [scriptTurns_enc_dec, runTurns_append henc, hdec]
  have hrun := run_of_runTurns rest (by decide) hturns
  have hst : t.st = s.st := by
    rw [ht.st, hu.st, hu.key]
    exact decrypt_encrypt params s.st s.key
  obtain ⟨herr₁, hcause⟩ := Prod.ext_iff.1 (herr'.trans herr)
  exact ⟨_, hrun, hst, ht.key.trans hu.key, ht.busy, ht.done, ht.dir, ht.rnd, herr₁, hcause, rfl⟩

end Sys2Proof.Machine
end

section
/-! A busy core left alone (44_round_controller.md R172): every step is a round step, until none is left. -/

namespace Sys2Proof.Machine

/-- A round step is the last one, or leaves one fewer. -/
theorem ctl_ends_or_counts {s t : State} (hbusy : s.busy = true) (hturn : runTurn .ctl s = .next t) :
    (roundsAfterNext s = 0 ∧ t.busy = false ∧ t.done = true ∧ t.rnd = 0) ∨
      (roundsAfterNext s = roundsAfterNext t + 1 ∧ t.busy = true) := by
  have hexec : exec (ctlInstr s) s = .next t := hturn
  cases hdir : s.dir with
  | false =>
    rw [ctlInstr_enc hbusy hdir] at hexec
    have hseq := sequencing_of_encround hexec
    by_cases hlast : s.rnd = 15
    · rw [if_pos hlast] at hseq
      simp only [sequencing, Prod.mk.injEq] at hseq
      exact .inl ⟨by simp [roundsAfterNext, hdir, hlast], hseq.1, done_of_last_encround hexec hlast, hseq.2.2⟩
    · have hcount : ∀ r : Fin 16, r ≠ 15 → 15 - r.val = 15 - (r + 1).val + 1 := by decide
      rw [if_neg hlast] at hseq
      simp only [sequencing, Prod.mk.injEq] at hseq
      obtain ⟨hbusy', hdir', hrnd⟩ := hseq
      exact .inr ⟨by simpa [roundsAfterNext, hdir, hdir', hrnd] using hcount s.rnd hlast, hbusy'⟩
  | true =>
    rw [ctlInstr_dec hbusy hdir] at hexec
    have hseq := sequencing_of_decround hexec
    by_cases hlast : s.rnd = 0
    · rw [if_pos hlast] at hseq
      simp only [sequencing, Prod.mk.injEq] at hseq
      exact .inl ⟨by simp [roundsAfterNext, hdir, hlast], hseq.1, done_of_last_decround hexec hlast, hseq.2.2⟩
    · have hcount : ∀ r : Fin 16, r ≠ 0 → r.val = (r - 1).val + 1 := by decide
      rw [if_neg hlast] at hseq
      simp only [sequencing, Prod.mk.injEq] at hseq
      obtain ⟨hbusy', hdir', hrnd⟩ := hseq
      exact .inr ⟨by simpa [roundsAfterNext, hdir, hdir', hrnd] using hcount s.rnd hlast, hbusy'⟩

/-- With nothing on the agenda the run is busy up to the last of the rounds left, and idle after it. -/
theorem run_remaining {s : State} {m : Nat} (hbusy : s.busy = true) (hagenda : s.agenda = [])
    (hleft : roundsAfterNext s = m) :
    (∃ t, core.run (m + 1) s = .next t ∧ t.busy = false ∧ t.done = true ∧ t.rnd = 0) ∧
      ∀ l < m + 1, ∃ u, core.run l s = .next u ∧ u.busy = true := by
  induction m generalizing s with
  | zero =>
    obtain ⟨t, hturn⟩ := exists_next_of_runTurn .ctl s
    obtain ⟨-, hend⟩ | ⟨hcount, -⟩ := ctl_ends_or_counts hbusy hturn
    · refine ⟨⟨t, run_succ 0 ((step_nil hagenda).trans hturn), hend⟩, fun l hl => ?_⟩
      obtain rfl : l = 0 := by omega
      exact ⟨s, rfl, hbusy⟩
    · omega
  | succ m ih =>
    obtain ⟨s', hturn⟩ := exists_next_of_runTurn .ctl s
    have hstep := (step_nil hagenda).trans hturn
    obtain ⟨hzero, -⟩ | ⟨hcount, hbusy'⟩ := ctl_ends_or_counts hbusy hturn
    · omega
    · obtain ⟨⟨t, ht, hend⟩, hbefore⟩ := ih hbusy' ((runTurn_agenda hturn).trans hagenda) (by omega)
      refine ⟨⟨t, (run_succ _ hstep).trans ht, hend⟩, fun l hl => ?_⟩
      cases l with
      | zero => exact ⟨s, rfl, hbusy⟩
      | succ l =>
        obtain ⟨u, hu, hbusy''⟩ := hbefore l (by omega)
        exact ⟨u, (run_succ l hstep).trans hu, hbusy''⟩

/-- Settles O54: the rounds left are the next one and those after it. -/
theorem aBusyControllerFinishes : Obligations.ABusyControllerFinishes := by
  intro s hbusy hagenda
  have hrounds : roundsAfterNext s + 1 = if s.dir then s.rnd.val + 1 else 16 - s.rnd.val := by
    unfold roundsAfterNext
    split <;> omega
  have hle : roundsAfterNext s + 1 ≤ 16 := by
    rw [hrounds]
    split <;> omega
  obtain ⟨hend, hbefore⟩ := run_remaining hbusy hagenda rfl
  exact ⟨roundsAfterNext s + 1, by omega, hle, hrounds, hend, hbefore⟩

end Sys2Proof.Machine
end

section
/-! Executions and runs (00_scope.md R8, 20_memory.md R63, 70_reset_and_hazards.md R256): the state after a turn and after a
step as functions, the turns of an execution as an agenda, and the turns an endless run takes. -/

namespace Sys2Proof.Machine

/-! ## The next state as a function -/

/-- The state a turn leaves; every turn leaves one (`runTurn_eq_afterTurn`). -/
def afterTurn (u : Turn) (s : State) : State :=
  match runTurn u s with
  | .next t => t
  | .fault _ => s
  | .refused _ => s

theorem runTurn_eq_afterTurn (u : Turn) (s : State) : runTurn u s = .next (afterTurn u s) := by
  obtain ⟨t, h⟩ := exists_next_of_runTurn u s
  simp only [afterTurn, h]

/-- The state a step leaves. -/
def afterStep (s : State) : State := afterTurn (nextTurn s).1 (nextTurn s).2

theorem step_eq_afterStep (s : State) : step s = .next (afterStep s) := runTurn_eq_afterTurn _ _

theorem run_eq_iterate (n : Nat) (s : State) : core.run n s = .next (afterStep^[n] s) := by
  induction n generalizing s with
  | zero => rfl
  | succ n ih => exact (run_succ n (step_eq_afterStep s)).trans (ih _)

/-! ## Any turns are an execution -/

/-- The states of the execution that takes the turns `turn` from `s`. -/
def statesFrom (s : State) (turn : Nat → Turn) : Nat → State
  | 0 => s
  | n + 1 => afterTurn (turn n) (statesFrom s turn n)

theorem isExecution_statesFrom {turn : Nat → Turn} (hwait : ∀ n, turn n ≠ .wait) (s : State) :
    IsExecution (statesFrom s turn) turn := fun n => ⟨hwait n, runTurn_eq_afterTurn _ _⟩

/-! ## A finite part of an execution is a run -/

theorem IsExecution.runTurns {σ : Nat → State} {turn : Nat → Turn} (h : IsExecution σ turn) (n : Nat) :
    runTurns ((List.range n).map turn) (σ 0) = .next (σ n) := by
  induction n with
  | zero => rfl
  | succ n ih =>
    obtain ⟨-, hturn⟩ := h n
    rw [List.range_succ, List.map_append, runTurns_append ih]
    exact (runTurns_one _ _).trans hturn

theorem IsExecution.run {σ : Nat → State} {turn : Nat → Turn} (h : IsExecution σ turn) (n : Nat) (rest : List Turn) :
    core.run n { σ 0 with agenda := (List.range n).map turn ++ rest } = .next { σ n with agenda := rest } := by
  have hwait : .wait ∉ (List.range n).map turn := fun hmem => by
    obtain ⟨m, -, hm⟩ := List.mem_map.1 hmem
    exact (h m).1 hm
  simpa using run_of_runTurns rest hwait (h.runTurns n)

/-! ## An endless run is a weakly fair execution -/

/-- The registers of the endless run from `s`, with the agenda left out. -/
def runStates (s : State) (n : Nat) : State := { afterStep^[n] s with agenda := [] }

/-- The turns that run takes. -/
def runTurnAt (s : State) (n : Nat) : Turn := (nextTurn (afterStep^[n] s)).1

/-- A wait is taken as a poll. -/
theorem nextTurn_ne_wait (s : State) : (nextTurn s).1 ≠ .wait := by
  unfold nextTurn
  split <;> exact nofun

theorem isExecution_runStates (s : State) : IsExecution (runStates s) (runTurnAt s) := by
  refine fun n => ⟨nextTurn_ne_wait _, ?_⟩
  obtain ⟨ag, hregs⟩ := nextTurn_registers (afterStep^[n] s)
  have hturn := runTurn_withAgenda [] (step_eq_afterStep (afterStep^[n] s))
  rw [hregs] at hturn
  rw [runStates, runStates, Function.iterate_succ_apply']
  exact hturn

/-- What a step leaves on the agenda is what its turn left there. -/
theorem afterStep_agenda (s : State) : (afterStep s).agenda = (nextTurn s).2.agenda :=
  runTurn_agenda (step_eq_afterStep s)

/-- While the core is busy the controller's turn comes: the agenda is finite, and a wait brings it next. -/
theorem exists_ctl_of_busy {s : State} (hbusy : ∀ m, (afterStep^[m] s).busy = true) :
    ∃ m, runTurnAt s m = .ctl := by
  induction hag : s.agenda generalizing s with
  | nil => exact ⟨0, by simp [runTurnAt, nextTurn, hag]⟩
  | cons u rest ih =>
    have hafter := afterStep_agenda s
    have hrest (h : (nextTurn s).2.agenda = rest) : ∃ m, runTurnAt s m = .ctl := by
      obtain ⟨m, hm⟩ := ih (fun m => hbusy (m + 1)) (hafter.trans h)
      exact ⟨m + 1, hm⟩
    cases u with
    | access a => exact hrest (by simp [nextTurn, hag])
    | reset => exact hrest (by simp [nextTurn, hag])
    | ctl => exact ⟨0, by simp [runTurnAt, nextTurn, hag]⟩
    | wait =>
      have hpoll : (nextTurn s).2.agenda = .ctl :: .wait :: rest := by
        have hb : s.busy = true := hbusy 0
        simp [nextTurn, hag, afterPoll, decodeStat_statusWord, hb]
      exact ⟨1, by simp [runTurnAt, nextTurn, hafter.trans hpoll]⟩

theorem weaklyFair_runStates (s : State) : WeaklyFair (runStates s) (runTurnAt s) := by
  intro n hbusy
  have hbusy' (m : Nat) : (afterStep^[m] (afterStep^[n] s)).busy = true := by
    rw [← Function.iterate_add_apply]
    exact hbusy (m + n) (Nat.le_add_left n m)
  obtain ⟨m, hm⟩ := exists_ctl_of_busy hbusy'
  rw [runTurnAt, ← Function.iterate_add_apply] at hm
  exact ⟨m + n, Nat.le_add_left n m, hm⟩

/-- Settles O56: any turns from any state, the agenda of a finite part, and the endless run without its agenda. -/
theorem executionsAreTheRuns : Obligations.ExecutionsAreTheRuns :=
  ⟨fun s turn hwait => ⟨statesFrom s turn, rfl, isExecution_statesFrom hwait s⟩,
    fun _ _ n rest h => h.run n rest,
    fun s => ⟨runStates s, runTurnAt s, isExecution_runStates s, weaklyFair_runStates s,
      fun n => ⟨(afterStep^[n] s).agenda, run_eq_iterate n s⟩⟩⟩

end Sys2Proof.Machine
end

section
/-! The result of an operation as the host reads it: it stays until something writes it (20_memory.md R63 (b)), and the
transaction returns it (45_host_commands.md R196, 30_encoding.md R100). -/

namespace Sys2Proof.Machine

/-! ## The block of an idle core (R63 (b)) -/

/-- The instructions that write `ST` or `BUSY` are none that keep the block. -/
theorem block_of_keepsBlock {i : Instr} {s t : State} (hkeeps : i.keepsBlock = true) (hnext : exec i s = .next t) :
    t.st = s.st ∧ t.busy = s.busy := by
  obtain ⟨hst, -, -, -, hbusy, -⟩ := registersChangeOnlyByTheirWriters i s t hnext
  refine ⟨by_contra fun hne => ?_, by_contra fun hne => ?_⟩
  · obtain rfl | ⟨j, v, rfl, -⟩ | rfl | rfl := hst hne <;> cases hkeeps
  · obtain rfl | ⟨rfl | rfl, -⟩ | ⟨rfl, -⟩ | ⟨rfl, -⟩ := hbusy hne <;> cases hkeeps

theorem block_of_keepsBlock_turn {u : Turn} {s t : State} (hkeeps : u.keepsBlock = true) (hidle : s.busy = false)
    (hturn : runTurn u s = .next t) : t.st = s.st ∧ t.busy = s.busy := by
  cases u with
  | access a => exact block_of_keepsBlock hkeeps hturn
  | ctl => exact block_of_keepsBlock (i := ctlInstr s) (by rw [ctlInstr_idle hidle]; rfl) hturn
  | reset => cases hkeeps
  | wait => cases hkeeps

theorem runTurns_keepsBlock {ts : List Turn} {s : State} (hidle : s.busy = false)
    (hkeeps : ∀ u ∈ ts, u.keepsBlock = true) : ∃ t, runTurns ts s = .next t ∧ t.st = s.st ∧ t.busy = false := by
  induction ts generalizing s with
  | nil => exact ⟨s, rfl, rfl, hidle⟩
  | cons u ts ih =>
    obtain ⟨hu, hts⟩ := List.forall_mem_cons.1 hkeeps
    obtain ⟨s', hturn⟩ := exists_next_of_runTurn u s
    obtain ⟨hst, hbusy⟩ := block_of_keepsBlock_turn hu hidle hturn
    obtain ⟨t, hturns, hst', hidle'⟩ := ih (hbusy.trans hidle) hts
    exact ⟨t, (runTurns_cons hturn ts).trans hturns, hst'.trans hst, hidle'⟩

/-- `RDBLK j` of an idle core (45_host_commands.md R184). -/
theorem runTurn_rdblk {s : State} (hidle : s.busy = false) (j : Fin 4) :
    runTurn (.access (readOf (8 + j.val))) s = .next { s with rd := s.st.get j } := by
  rw [runTurn, readOf, decodeAccess_blk, if_neg Bool.false_ne_true, exec_rdblk, hidle]
  rfl

/-- Settles O57: the turns keep the block and leave the core idle, and an idle core answers the read. -/
theorem theResultStaysReadable : Obligations.TheResultStaysReadable := by
  intro s ts rest j hstatus hkeeps
  rw [decodeStat_statusWord] at hstatus
  obtain ⟨t, hturns, hst, hidle⟩ := runTurns_keepsBlock hstatus hkeeps
  have hwait : .wait ∉ ts ++ [.access (readOf (8 + j.val))] := by
    simpa using fun hmem => absurd (hkeeps .wait hmem) Bool.false_ne_true
  have hread : runTurns (ts ++ [.access (readOf (8 + j.val))]) s = .next { t with rd := t.st.get j } := by
    rw [runTurns_append hturns, runTurns_one, runTurn_rdblk hidle]
  have hrun := run_of_runTurns rest hwait hread
  rw [List.length_append, List.append_assoc] at hrun
  exact ⟨_, hrun, by rw [hst], hst, rfl⟩

/-! ## Loading the key and the block -/

/-- Statements that write a register of an idle core one after the other do their writes in that order. -/
theorem runTurns_loads {ι : Type} {stmt : ι → Word → Stmt} {write : ι → Word → State → State}
    (hwrite : ∀ j v s, s.busy = false →
      runTurns (stmtTurns (stmt j v)) s = .next { write j v s with rd := 0 } ∧ (write j v s).busy = false)
    (ps : List (ι × Word)) {s : State} (hidle : s.busy = false) :
    runTurns (scriptTurns (ps.map fun p => stmt p.1 p.2)) s =
      .next (ps.foldl (fun s p => { write p.1 p.2 s with rd := 0 }) s) := by
  induction ps generalizing s with
  | nil => rfl
  | cons p ps ih =>
    obtain ⟨hturn, hidle'⟩ := hwrite p.1 p.2 s hidle
    exact (runTurns_append hturn _).trans (ih hidle')

theorem runTurns_ldkey (j : Fin 8) (v : Word) (s : State) (hidle : s.busy = false) :
    runTurns (stmtTurns (.ldkey j v)) s = .next { writeKey j v s with rd := 0 } ∧ (writeKey j v s).busy = false := by
  refine ⟨(runTurns_one _ s).trans ((congrArg (exec · s) (decode_ldkey j v)).trans ?_), hidle⟩
  exact whenIdle_idle (writeKey j v s) hidle

theorem runTurns_ldblk (j : Fin 4) (v : Word) (s : State) (hidle : s.busy = false) :
    runTurns (stmtTurns (.ldblk j v)) s = .next { writeBlk j v s with rd := 0 } ∧ (writeBlk j v s).busy = false := by
  refine ⟨(runTurns_one _ s).trans ((congrArg (exec · s) (decode_ldblk j v)).trans ?_), hidle⟩
  exact whenIdle_idle (writeBlk j v s) hidle

/-- `LOADKEY` (30_encoding.md R100). -/
theorem runTurns_loadKey {s : State} (hidle : s.busy = false) (k : Key) :
    runTurns (loadKey k) s = .next { s with key := k, rd := 0 } := by
  refine (runTurns_loads runTurns_ldkey [(0, k.k0), (1, k.k1), (2, k.k2), (3, k.k3), (4, k.k4), (5, k.k5), (6, k.k6),
    (7, k.k7)] hidle).trans (congrArg _ ?_)
  simp only [List.foldl, writeKey, Key.set]

/-- `LOADBLK` (R100). -/
theorem runTurns_loadBlk {s : State} (hidle : s.busy = false) (b : Block) :
    runTurns (loadBlk b) s = .next { s with st := b, done := false, rd := 0 } := by
  refine (runTurns_loads runTurns_ldblk [(0, b.w0), (1, b.w1), (2, b.w2), (3, b.w3)] hidle).trans (congrArg _ ?_)
  simp only [List.foldl, writeBlk, Block.set]

/-- The loads and the start: the operation runs on the block and the key loaded. -/
theorem Starts.afterLoads {start : Turn} {dir : Bool} (hstart : Starts start dir) {s : State} (hidle : s.busy = false)
    (b : Block) (k : Key) : ∃ t, runTurns (loadKey k ++ (loadBlk b ++ [start])) s = .next t ∧
      Running dir b k 0 t ∧ errorRecord t = errorRecord s := by
  obtain ⟨t, hturn, hrunning, herr⟩ := hstart { s with key := k, st := b, done := false, rd := 0 } hidle
  refine ⟨t, ?_, hrunning, herr⟩
  rw [runTurns_append (runTurns_loadKey hidle k), runTurns_append (runTurns_loadBlk (by exact hidle) b), runTurns_one]
  exact hturn

/-! ## `WAIT` -/

section
variable {dir : Bool} {b : Block} {k : Key} {n : Nat} {s : State}

/-- A poll that shows `BUSY=1`, and the controller's turn before the next one (log 3). -/
theorem run_poll_ctl {u : State} (hbusy : s.busy = true) (rest : List Turn)
    (hturn : runTurn .ctl { s with rd := statusWord s } = .next u) :
    core.run 2 { s with agenda := .wait :: rest } = .next { u with agenda := .wait :: rest } := by
  have hpoll : step { s with agenda := .wait :: rest } =
      .next { s with rd := statusWord s, agenda := .ctl :: .wait :: rest } := by
    rw [step_wait rfl, if_pos hbusy, exec_rdstat]
    rfl
  have hturn' := runTurn_withAgenda (.wait :: rest) hturn
  have hctl : step { s with rd := statusWord s, agenda := .ctl :: .wait :: rest } =
      .next { u with agenda := .wait :: rest } := (step_ctl rfl).trans hturn'
  exact (run_succ 1 hpoll).trans (run_succ 0 hctl)

/-- The poll that shows `BUSY=0` ends the wait. -/
theorem run_last_poll (hidle : s.busy = false) (rest : List Turn) :
    core.run 1 { s with agenda := .wait :: rest } = .next { s with rd := statusWord s, agenda := rest } := by
  refine run_succ 0 ?_
  rw [step_wait rfl, if_neg (by simp [hidle]), exec_rdstat]
  rfl

theorem Running.withRd (h : Running dir b k n s) (v : Word) : Running dir b k n { s with rd := v } :=
  ⟨h.st, h.key, h.rnd, h.dir, h.busy, h.done⟩

theorem Completed.withRd (h : Completed dir b k s) (v : Word) : Completed dir b k { s with rd := v } :=
  ⟨h.st, h.key, h.rnd, h.dir, h.busy, h.done⟩

/-- A wait takes two steps for each round left and one for the last poll. -/
theorem Running.run_wait (h : Running dir b k n s) {m : Nat} (hnm : n + m = 15) (rest : List Turn) :
    ∃ t, core.run (2 * m + 3) { s with agenda := .wait :: rest } = .next { t with agenda := rest } ∧
      Completed dir b k t ∧ errorRecord t = errorRecord s := by
  have hpolled := h.withRd (statusWord s)
  induction m generalizing n s with
  | zero =>
    obtain rfl : n = 15 := hnm
    obtain ⟨u, hturn, hdone⟩ := hpolled.lastRound
    have herr := errorRecord_of_ctl hturn
    refine ⟨{ u with rd := statusWord u }, ?_, hdone.withRd _, herr⟩
    exact (run_add 1 (run_poll_ctl h.busy rest hturn)).trans (run_last_poll hdone.busy rest)
  | succ m ih =>
    obtain ⟨u, hturn, hu⟩ := hpolled.round (by omega)
    have herr := errorRecord_of_ctl hturn
    obtain ⟨t, hrun, hdone, herr'⟩ := ih hu (by omega) (hu.withRd _)
    refine ⟨t, ?_, hdone, herr'.trans herr⟩
    rw [show 2 * (m + 1) + 3 = 2 + (2 * m + 3) by omega, run_add _ (run_poll_ctl h.busy rest hturn)]
    exact hrun

end

/-! ## Reading the result -/

/-- Reads change the read data only. -/
theorem runTurns_reads {ts : List Turn} (hreads : ∀ u ∈ ts, ∃ wa wd, u = .access ⟨false, wa, wd⟩) (s : State) :
    ∃ v, runTurns ts s = .next { s with rd := v } := by
  induction ts generalizing s with
  | nil => exact ⟨s.rd, rfl⟩
  | cons u ts ih =>
    obtain ⟨⟨wa, wd, rfl⟩, hts⟩ := List.forall_mem_cons.1 hreads
    obtain ⟨v, hturns⟩ := ih hts { s with rd := windowRead wa s }
    have hread : runTurn (.access ⟨false, wa, wd⟩) s = .next { s with rd := windowRead wa s } := exec_read wa wd s
    exact ⟨v, (runTurns_cons hread ts).trans hturns⟩

/-- The reads of `READBLK` before the one of word `j` (30_encoding.md R100). -/
def readsBefore (j : Fin 4) : List Turn := (List.range j.val).map fun i => .access (readOf (8 + i))

/-- Up to the read of word `j`, and what is left of `READBLK` after it. -/
theorem readBlock_eq (j : Fin 4) :
    readBlock = readsBefore j ++ [.access (readOf (8 + j.val))] ++ readBlock.drop (j.val + 1) := by
  revert j; decide

/-- The read of word `j` in `READBLK`. -/
theorem run_readBlock {s : State} (hidle : s.busy = false) (j : Fin 4) (rest : List Turn) :
    core.run (j.val + 1) { s with agenda := readBlock ++ rest } =
      .next { s with rd := s.st.get j, agenda := readBlock.drop (j.val + 1) ++ rest } := by
  obtain ⟨v, hbefore⟩ := runTurns_reads (ts := readsBefore j) (s := s) fun u hu => by
    obtain ⟨i, -, rfl⟩ := List.mem_map.1 hu
    exact ⟨_, _, rfl⟩
  have hread : runTurns (readsBefore j ++ [.access (readOf (8 + j.val))]) s = .next { s with rd := s.st.get j } := by
    rw [runTurns_append hbefore, runTurns_one]
    exact runTurn_rdblk (by exact hidle) j
  have hwait : .wait ∉ readsBefore j ++ [.access (readOf (8 + j.val))] := by simp [readsBefore]
  have hrun := run_of_runTurns (readBlock.drop (j.val + 1) ++ rest) hwait hread
  rw [← List.append_assoc, ← readBlock_eq, List.length_append, readsBefore, List.length_map, List.length_range] at hrun
  exact hrun

/-! ## The transaction -/

/-- The loads, the start, the wait and the reads up to word `j`. -/
theorem Starts.run_transaction {start : Turn} {dir : Bool} (hstart : Starts start dir) (hne : start ≠ .wait) {s : State}
    (hidle : s.busy = false) (b : Block) (k : Key) (j : Fin 4) (rest : List Turn) :
    ∃ t, core.run (8 + 4 + 1 + 33 + (j.val + 1))
        { s with agenda := loadKey k ++ (loadBlk b ++ [start] ++ [.wait] ++ readBlock) ++ rest } = .next t ∧
      t.rd = (opRounds dir b k Config.nr).get j ∧ t.st = opRounds dir b k Config.nr ∧ t.key = k ∧ t.done = true ∧
      (s.errorFree = true → t.errorFree = true) := by
  obtain ⟨u, hloads, hrunning, herr⟩ := hstart.afterLoads hidle b k
  obtain ⟨t, hwaited, hdone, herr'⟩ := hrunning.run_wait (m := 15) rfl (readBlock ++ rest)
  have hnowait : .wait ∉ loadKey k ++ (loadBlk b ++ [start]) := by
    simpa [loadKey, loadBlk, scriptTurns, stmtTurns, stmtCode, turnOf] using hne.symm
  have hloaded : core.run 13 { s with agenda := loadKey k ++ (loadBlk b ++ [start] ++ [.wait] ++ readBlock) ++ rest } =
      .next { u with agenda := .wait :: (readBlock ++ rest) } := by
    have hrun := run_of_runTurns (.wait :: (readBlock ++ rest)) hnowait hloads
    rw [show (loadKey k ++ (loadBlk b ++ [start])).length = 13 from rfl] at hrun
    simpa using hrun
  refine ⟨{ t with rd := t.st.get j, agenda := readBlock.drop (j.val + 1) ++ rest }, ?_, ?_, hdone.st, hdone.key,
    hdone.done, fun hfree => ?_⟩
  · rw [show 8 + 4 + 1 + 33 + (j.val + 1) = 13 + (33 + (j.val + 1)) by omega, run_add _ hloaded, run_add _ hwaited]
    exact run_readBlock hdone.busy j rest
  · exact congrArg (Block.get · j) hdone.st
  · have herr₁ : t.err = s.err := congrArg Prod.fst (herr'.trans herr)
    simpa only [State.errorFree, herr₁] using hfree

/-- Settles O58: the transaction of either direction. -/
theorem theTransactionReturnsTheResult : Obligations.TheTransactionReturnsTheResult := fun _ b k rest j hidle =>
  ⟨starts_enc.run_transaction nofun hidle b k j rest, starts_dec.run_transaction nofun hidle b k j rest⟩

end Sys2Proof.Machine
end
